-- ==== Sys2Proof/Word.lean ====
section
/-! DEFINITION. The two data widths of SHA256-CE: the 32-bit word and the 8-bit byte
(00_scope.md R6, R10). Addition on words is `BitVec` addition, which is modulo 2^32 (R11, R115). -/

namespace Sys2Proof

/-- A 32-bit unsigned word (R6 "word width", R10). -/
abbrev Word := BitVec 32

/-- An 8-bit byte (R10). -/
abbrev Byte := BitVec 8

end Sys2Proof
end

