-- ==== Sys2Proof/Config.lean ====
section
/-! DEFINITION. What the spec leaves open: the parameter RESET_DRAW (10_state.md R36), at its
recommended value "draw at reset". Each constant below has no body, so no proof can see a value of
it. DESIGN CHOICE (notes/assumptions/3.md). PLATFORM_ATTACH (20_memory.md R49) is read by no rule
and has no constant here (notes/assumptions/12.md). -/

namespace Sys2Proof

/-- The data state, which reset leaves unspecified (10_state.md R35): the four register files. -/
structure DataState where
  /-- The chaining state H[0..7] (R20). -/
  h : Vector Word 8
  /-- The working variables x[0..7] = a, b, c, d, e, f, g, h (R21). -/
  x : Vector Word 8
  /-- The message schedule W[0..63] (R22). -/
  w : Vector Word 64
  /-- The block buffer B[0..63], the BLOCK space's storage (R23, R40). -/
  b : Vector Byte 64
deriving DecidableEq, Repr, Inhabited

namespace Config

/-- The data state right after power-on, when nothing was held before (R35, R36: unspecified). -/
opaque powerOn : DataState

/-- The data state after a later reset (R35, R36: unspecified). Its arguments are the number of the
reset, the sequencer word and the data the engine held: nothing says that old contents are erased
(70_reset_and_hazards.md R166), nor that they are kept (R156). ERR is no argument: no behaviour
depends on it (10_state.md R27). -/
opaque resetDraw (n : Nat) (seq : BitVec 9) (held : DataState) : DataState

end Config

end Sys2Proof
end

