-- ==== Sys2Proof/Syntax.lean ====
section
/-! DEFINITION. The ten instructions of spec/opcode_table.json: the five host commands of format C
(30_encoding.md R62) and the five micro-operations of format U (R66). -/

namespace Sys2Proof

/-- One constructor per row of the opcode table. Operands are the fields of the encoded word, used
as unsigned values exactly as they stand in it (R61). -/
inductive Instr where
  /-- NOP (40_host_commands.md R80). -/
  | nop
  /-- INIT: load the IV into the chaining state (R81). -/
  | init
  /-- WRB addr, data: write one byte of the block buffer (R82). -/
  | wrb (addr : BitVec 6) (data : BitVec 8)
  /-- RUN: start compressing the block (R83). -/
  | run
  /-- RDD addr: read one byte of the digest window (R84). -/
  | rdd (addr : BitVec 5)
  /-- LDW: load the sixteen block words (41_message_schedule.md R92). -/
  | ldw
  /-- EXP: expand schedule word t, 16 ≤ t ≤ 63 (R93). -/
  | exp (t : BitVec 6)
  /-- LDV: load the working variables (42_round_function.md R105). -/
  | ldv
  /-- RND: round t (R106). -/
  | rnd (t : BitVec 6)
  /-- ADD: add the working variables into the chaining state (43_chaining_update.md R111). -/
  | add
deriving DecidableEq, Repr

/-- The two agents of R8: who takes the step that performs an instruction. -/
inductive Agent where
  /-- The host: an accepted command word. -/
  | host
  /-- The engine: a micro-operation selected by the sequencer word. -/
  | engine
deriving DecidableEq, Repr

/-- A command is a host step, a micro-operation an engine step (R2, R8). -/
def Instr.agent : Instr → Agent
  | .nop => .host
  | .init => .host
  | .wrb _ _ => .host
  | .run => .host
  | .rdd _ => .host
  | .ldw => .engine
  | .exp _ => .engine
  | .ldv => .engine
  | .rnd _ => .engine
  | .add => .engine

end Sys2Proof
end

