-- ==== Sys2Proof/Machine/State.lean ====
section
/-! DEFINITION. The state of SHA256-CE: the engine, which is the sequencer word, ERR and the register
files H, x, W and B (10_state.md R20 to R29) and nothing else; and beside it the host that drives
the command port, because one deterministic step has no other input or output
(notes/assumptions/1.md, 2.md). -/

namespace Sys2Proof.Machine

/-- The phase of the sequencer word: the six named values of R25, R65. Codes 6 and 7 never occur
(R26) and have no constructor. -/
inductive Phase where
  | idle
  | load
  | expand
  | initv
  | round
  | addback
deriving DecidableEq, Repr

/-- The sequencer word `seq = (phase, t)`, the engine's program counter (R25). -/
structure Seq where
  phase : Phase
  t : BitVec 6
deriving DecidableEq, Repr

/-- One move of the host on the input pins (R32 "Inputs", R86). -/
inductive HostMove where
  /-- The host presents `cmd` with `cmd_valid = 1`, `rst = 0`, and keeps presenting it until the
  engine accepts it (R71 "each as soon as the engine is ready", R86). -/
  | present (cmd : Word)
  /-- The levels of `rst`, `cmd_valid` and `cmd` for exactly one step: an idle port, a reset, or a
  command presented and withdrawn (R34, R86, R160). -/
  | pins (rst cmdValid : Bool) (cmd : Word)
deriving DecidableEq, Repr

/-- The engine: the spec's whole writable state, 3082 bits (R20 to R29), and nothing else. K and IV are
constants (R24), BUSY is computed (R27), and neither T1, T2, nor a command word, a response byte or
a command stream is kept (R28). H, x, W and B are inherited from `DataState`. -/
structure Engine extends DataState where
  /-- The sequencer word (R25). -/
  seq : Seq
  /-- ERR, the sticky illegal-command flag (R27). -/
  err : Bool
deriving DecidableEq, Repr

/-- MODEL'S OWN: the other agent (00_scope.md R8), what drives the port. It is outside the engine: the
commands it is to issue and the bytes it has received are its own data (R28). -/
structure HostSide where
  /-- What the host is still to do on the input pins, next move first. The empty list is an idle port
  for ever: `rst = 0`, `cmd_valid = 0`. -/
  stream : List HostMove
  /-- The bytes the host has received on `rsp_data` from accepted RDDs, oldest first
  (70_reset_and_hazards.md R168). -/
  responses : List Byte
deriving DecidableEq, Repr

/-- The closed system that one input-less step runs: the engine and the host that drives it. -/
structure State extends Engine, HostSide where
  /-- MODEL'S OWN: how many resets have drawn values since power-on, the first argument of
  `Config.resetDraw`. -/
  draws : Nat
deriving DecidableEq, Repr

/-- Why the machine stops. -/
inductive Fault where
  /-- Raised by the step of a state whose sequencer word is one of the reserved words of R69, and by
  EXP with an index below 16 (R66): no step is enabled, the machine is stuck (R26, U4). Safe: the
  spec gives such a state no successor, and no run from reset reaches one. -/
  | stuckSequencer
deriving DecidableEq, Repr

/-- Why an instruction has no meaning. -/
inductive Refusal where
  /-- Raised by no instruction of this model: every row of the opcode table has its meaning. Safe. -/
  | notModelled (mnemonic : String)
deriving DecidableEq, Repr

/-- (IDLE, 0): the engine waits for a command (R26). -/
def Seq.idle : Seq := { phase := .idle, t := 0#6 }

/-- The state right after reset (R33): seq = (IDLE, 0), ERR = 0, and H, x, W, B at the values power-on
drew (R35, R36). The port is idle and nothing has been returned. -/
def State.reset : State where
  toDataState := Config.powerOn
  seq := Seq.idle
  err := false
  stream := []
  responses := []
  draws := 0

end Sys2Proof.Machine
end

