-- ==== Sys2Proof/Machine/Flags.lean ====
section
/-! DEFINITION. The status flags and the output pins, functions of the current state (10_state.md
R27, R32): BUSY is computed from the phase, ERR is stored. No arithmetic sets a flag (R27). -/

namespace Sys2Proof.Machine

/-- `busy`: 1 when `phase ≠ IDLE` (R27, R32). -/
def State.busy (s : State) : Bool := decide (s.seq.phase ≠ Phase.idle)

/-- `cmd_ready`: 1 when `phase = IDLE` (R32). -/
def State.cmdReady (s : State) : Bool := decide (s.seq.phase = Phase.idle)

/-- `err`: ERR (R32). -/
def State.errPin (s : State) : Bool := s.err

/-- The idle state of R26 in which a command can be accepted: seq = (IDLE, 0). -/
def State.idle (s : State) : Bool := decide (s.seq = Seq.idle)

end Sys2Proof.Machine
end

