-- ==== Sys2Proof/Machine/Operands.lean ====
section
/-! DEFINITION. Operand forms and byte order: how a command's address field names a byte of BLOCK or
DIGEST (30_encoding.md R61, 20_memory.md R40), block bytes to words (R41), the DIGEST view (R43),
and the sequencer index as a register index. Everything is unsigned and big-endian (R44). -/

namespace Sys2Proof.Machine

/-- The BLOCK address WRB's field names, 0 to 63 (R61, R40). -/
def blockAddr (a : BitVec 6) : Fin 64 := a.toFin

/-- The DIGEST address RDD's field names, 0 to 31 (R61, R40). -/
def digestAddr (a : BitVec 5) : Fin 32 := a.toFin

/-- The schedule or round index the field t names, 0 to 63 (R25). -/
def wordIndex (t : BitVec 6) : Fin 64 := t.toFin

/-- `{b0, b1, b2, b3}`: a word from four bytes, the first most significant (R41). -/
def beWord (b0 b1 b2 b3 : Byte) : Word := b0 ++ b1 ++ b2 ++ b3

/-- `MemRead(BLOCK, 4i, 4)` as a word, i = 0 to 15 (R40, R41). -/
def blockWord (b : Vector Byte 64) (i : Fin 16) : Word :=
  beWord b[4 * i.val] b[4 * i.val + 1] b[4 * i.val + 2] b[4 * i.val + 3]

/-- `DIGEST[j] = H[i][31-8r : 24-8r]` with i = j div 4, r = j mod 4 (R43). -/
def digestByte (h : Vector Word 8) (j : Fin 32) : Byte :=
  h[j.val / 4].extractLsb' (24 - 8 * (j.val % 4)) 8

end Sys2Proof.Machine
end

