-- ==== Sys2Proof/Machine/Sequencer.lean ====
section
/-! DEFINITION. The sequencer word as bits (30_encoding.md R64, R65), which of its values are
reachable (10_state.md R26), and its next-state function (R67). -/

namespace Sys2Proof.Machine

/-- The phase codes (R65). -/
def Phase.code : Phase → BitVec 3
  | .idle => 0#3
  | .load => 1#3
  | .expand => 2#3
  | .initv => 3#3
  | .round => 4#3
  | .addback => 5#3

/-- The phase a code names; codes 6 and 7 name none (R65). -/
def Phase.ofCode (c : BitVec 3) : Option Phase :=
  if c = 0#3 then some .idle
  else if c = 1#3 then some .load
  else if c = 2#3 then some .expand
  else if c = 3#3 then some .initv
  else if c = 4#3 then some .round
  else if c = 5#3 then some .addback
  else none

/-- `seq[8:0] = {phase[2:0], t[5:0]}` (R64). -/
def Seq.word (q : Seq) : BitVec 9 := q.phase.code ++ q.t

/-- The pair a 9-bit word holds, where its phase code names a phase. -/
def Seq.ofWord (w : BitVec 9) : Option Seq :=
  match Phase.ofCode (w.extractLsb' 6 3) with
  | some p => some { phase := p, t := w.extractLsb' 0 6 }
  | none => none

/-- The 116 values reachable from reset (R26): t = 0 outside EXPAND and ROUND, 16 ≤ t in EXPAND. -/
def Seq.legal (q : Seq) : Bool :=
  match q.phase with
  | .idle => decide (q.t = 0#6)
  | .load => decide (q.t = 0#6)
  | .expand => decide (16 ≤ q.t.toNat)
  | .initv => decide (q.t = 0#6)
  | .round => true
  | .addback => decide (q.t = 0#6)

/-- (LOAD, 0), which RUN sets (R67). -/
def Seq.load : Seq := { phase := .load, t := 0#6 }

/-- (EXPAND, 16), which LDW sets (R67). -/
def Seq.firstExpand : Seq := { phase := .expand, t := 16#6 }

/-- (INITV, 0). -/
def Seq.initv : Seq := { phase := .initv, t := 0#6 }

/-- (ROUND, 0), which LDV sets (R67). -/
def Seq.firstRound : Seq := { phase := .round, t := 0#6 }

/-- (ADDBACK, 0). -/
def Seq.addback : Seq := { phase := .addback, t := 0#6 }

/-- The successor of (EXPAND, t): t is set, not incremented, past 63 (R25, R67, R93). -/
def Seq.afterExpand (t : BitVec 6) : Seq :=
  if t.toNat < 63 then { phase := .expand, t := t + 1#6 } else Seq.initv

/-- The successor of (ROUND, t) (R67, R106). -/
def Seq.afterRound (t : BitVec 6) : Seq :=
  if t.toNat < 63 then { phase := .round, t := t + 1#6 } else Seq.addback

/-- `next(seq)` for the engine step taken at `seq` (the table of R67); an idle engine takes none. -/
def Seq.next (q : Seq) : Seq :=
  match q.phase with
  | .idle => q
  | .load => Seq.firstExpand
  | .expand => Seq.afterExpand q.t
  | .initv => Seq.firstRound
  | .round => Seq.afterRound q.t
  | .addback => Seq.idle

/-- How many engine steps bring the sequencer back to idle: 115 from (LOAD, 0) (R67, R169). -/
def Seq.stepsToIdle (q : Seq) : Nat :=
  match q.phase with
  | .idle => 0
  | .load => 115
  | .expand => 130 - q.t.toNat
  | .initv => 66
  | .round => 65 - q.t.toNat
  | .addback => 1

end Sys2Proof.Machine
end

