-- ==== Sys2Proof/Machine/WordFunctions.lean ====
section
/-! DEFINITION. The word operators of 00_scope.md R11 and the six functions on words:
σ0, σ1 (41_message_schedule.md R90, R91), Σ0, Σ1, Ch, Maj (42_round_function.md R100 to R103). -/

namespace Sys2Proof.Machine

/-- `rotr(x, n)`: rotate a 32-bit word right by n, 0 < n < 32, as the two shifts of R11. -/
def rotr (x : Word) (n : Nat) : Word := (x >>> n) ^^^ (x <<< (32 - n))

/-- `x >> n`: logical right shift, zeros shifted in at the top (R11). -/
def shr (x : Word) (n : Nat) : Word := x >>> n

/-- σ0 (R90). -/
def ssig0 (x : Word) : Word := rotr x 7 ^^^ rotr x 18 ^^^ shr x 3

/-- σ1 (R91). -/
def ssig1 (x : Word) : Word := rotr x 17 ^^^ rotr x 19 ^^^ shr x 10

/-- Σ0 (R100). -/
def bsig0 (x : Word) : Word := rotr x 2 ^^^ rotr x 13 ^^^ rotr x 22

/-- Σ1 (R101). -/
def bsig1 (x : Word) : Word := rotr x 6 ^^^ rotr x 11 ^^^ rotr x 25

/-- Ch (R102). -/
def ch (e f g : Word) : Word := (e &&& f) ^^^ (~~~e &&& g)

/-- Maj (R103). -/
def maj (a b c : Word) : Word := (a &&& b) ^^^ (a &&& c) ^^^ (b &&& c)

end Sys2Proof.Machine
end

