-- ==== Sys2Proof/Machine/Ops.lean ====
section
/-! DEFINITION. The named operations over the registers and the two byte spaces (00_scope.md R13),
the input pins and what a step consumes of them (40_host_commands.md R86), the one exception
(60_exceptions.md R140) and reset (10_state.md R34, R35). There is no return from the exception:
it transfers control nowhere and saves nothing (R145, R146). -/

namespace Sys2Proof.Machine

/-! ## Register and memory operations (R13) -/

/-- `seq <- (P, t)`. -/
def State.setSeq (s : State) (q : Seq) : State := { s with seq := q }

/-- `H[i] <- v` for i = 0 to 7. -/
def State.setH (s : State) (h : Vector Word 8) : State := { s with h := h }

/-- `x[i] <- v` for i = 0 to 7. -/
def State.setX (s : State) (x : Vector Word 8) : State := { s with x := x }

/-- `W[i] <- v` for one i. -/
def State.setW (s : State) (i : Fin 64) (v : Word) : State :=
  { s with w := s.w.set i.val v i.isLt }

/-- `MemWrite(BLOCK, j, 1, v)`, that is `B[j] <- v` (20_memory.md R40). -/
def State.writeBlock (s : State) (j : Fin 64) (v : Byte) : State :=
  { s with b := s.b.set j.val v j.isLt }

/-- `MemRead(BLOCK, j, 1)`: the byte B[j] (R40). Only LDW reads BLOCK (R23). -/
def State.readBlock (s : State) (j : Fin 64) : Byte := s.b[j.val]

/-- `MemRead(DIGEST, j, 1)`: a byte of the big-endian view of H (R40, R43). -/
def State.readDigest (s : State) (j : Fin 32) : Byte := digestByte s.h j

/-- `rsp <- v`: the byte returned to the host by the command being accepted (R13, R84). -/
def State.respond (s : State) (v : Byte) : State :=
  { s with responses := s.responses ++ [v] }

/-! ## The BLOCK space as a list of cells -/

/-- The BLOCK space as (address, byte) pairs, one for each of its 64 addresses (R40). -/
def State.blockCells (s : State) : List Host.Cell :=
  (List.finRange 64).map fun j => (j.val, s.readBlock j)

/-- The canonical form of such a list: the addresses are 0 to 63, strictly rising, none left out.
An address outside the space cannot be expressed (R50), so no unlisted address is ever read. -/
def Memory.wf (m : List Host.Cell) : Bool := decide (m.map Prod.fst = List.range 64)

/-! ## The working part of the data path -/

/-- `W[t-16] + σ0(W[t-15]) + W[t-7] + σ1(W[t-2])` (41_message_schedule.md R93). -/
def expandWord (w : Vector Word 64) (t : Fin 64) : Word :=
  w[t.val - 16] + ssig0 w[t.val - 15] + w[t.val - 7] + ssig1 w[t.val - 2]

/-- `T1 = h + Σ1(e) + Ch(e, f, g) + K[t] + W[t]` (42_round_function.md R106); not state (R28). -/
def temp1 (x : Vector Word 8) (k w : Word) : Word :=
  x[7] + bsig1 x[4] + ch x[4] x[5] x[6] + k + w

/-- `T2 = Σ0(a) + Maj(a, b, c)` (R106); not state (R28). -/
def temp2 (x : Vector Word 8) : Word := bsig0 x[0] + maj x[0] x[1] x[2]

/-- The eight new working variables of a round, all computed from the old ones (R9, R106). -/
def roundVars (x : Vector Word 8) (k w : Word) : Vector Word 8 :=
  #v[temp1 x k w + temp2 x, x[0], x[1], x[2], x[3] + temp1 x k w, x[4], x[5], x[6]]

/-- `H[i] + x[i]` for i = 0 to 7, each modulo 2^32 (43_chaining_update.md R111). -/
def addWords (h x : Vector Word 8) : Vector Word 8 :=
  Vector.ofFn fun i => h[i.val] + x[i.val]

/-- W with W[0..15] loaded from the block and W[16..63] kept (41_message_schedule.md R92). -/
def loadWords (b : Vector Byte 64) (w : Vector Word 64) : Vector Word 64 :=
  Vector.ofFn fun i => if h : i.val < 16 then blockWord b ⟨i.val, h⟩ else w[i.val]

/-- `W[i] <- {B[4i], B[4i+1], B[4i+2], B[4i+3]}` for i = 0 to 15, in one step (R92). -/
def State.loadSchedule (s : State) : State := { s with w := loadWords s.b s.w }

/-! ## The input pins (10_state.md R32, 40_host_commands.md R86) -/

/-- The level of `rst` in the coming step. -/
def State.rstPin (s : State) : Bool :=
  match s.stream with
  | [] => false
  | .present _ :: _ => false
  | .pins r _ _ :: _ => r

/-- The level of `cmd_valid` in the coming step. -/
def State.cmdValidPin (s : State) : Bool :=
  match s.stream with
  | [] => false
  | .present _ :: _ => true
  | .pins _ v _ :: _ => v

/-- The level of `cmd[31:0]` in the coming step; of no meaning while `cmd_valid = 0`. -/
def State.cmdPin (s : State) : Word :=
  match s.stream with
  | [] => 0#32
  | .present c :: _ => c
  | .pins _ _ c :: _ => c

/-- The command word accepted in the coming step: one is accepted exactly when `cmd_valid = 1`,
`cmd_ready = 1` and `rst = 0` (R86). -/
def State.accepted (s : State) : Option Word :=
  if s.cmdValidPin && s.cmdReady && !s.rstPin then some s.cmdPin else none

/-- The host moves left after a step in which no command is accepted: a held command stays
presented (R86 "held"), levels given for one step are over. -/
def heldStream : List HostMove → List HostMove
  | [] => []
  | .present c :: rest => .present c :: rest
  | .pins _ _ _ :: rest => rest

/-- The port after a step that accepts no command. -/
def State.held (s : State) : State := { s with stream := heldStream s.stream }

/-- The port after a step that accepts the presented command: that move is over. -/
def State.consumed (s : State) : State := { s with stream := s.stream.tail }

/-! ## The exception and reset -/

/-- `raise IllegalCommand(cmd)`: `ERR <- 1` and nothing else; the word is not recorded (R85, R140).
No control is transferred and nothing is saved (R145). -/
def State.raiseIllegalCommand (s : State) (_cmd : Word) : State := { s with err := true }

/-- The data state the coming reset leaves (R35, R36): unspecified, and free to depend on what the
engine holds, so that neither erasure nor survival can be concluded (70_reset_and_hazards.md R156,
R166). -/
def State.resetData (s : State) : DataState :=
  Config.resetDraw s.draws s.seq.word s.toDataState

/-- Reset: `seq <- (IDLE, 0)`, `ERR <- 0`, and H, x, W, B at freshly drawn values (R34, R35, R36).
Bytes already returned to the host stay returned. -/
def State.takeReset (s : State) : State :=
  { s with
    seq := Seq.idle
    err := false
    h := s.resetData.h
    x := s.resetData.x
    w := s.resetData.w
    b := s.resetData.b
    draws := s.draws + 1 }

end Sys2Proof.Machine
end

