-- ==== Sys2Proof/Machine/Chaining.lean ====
section
/-! DEFINITION. The meaning of the add-back micro-operation ADD (43_chaining_update.md R111). -/

namespace Sys2Proof.Machine

/-- ADD: `H[i] <- H[i] + x[i]` for i = 0 to 7; `seq <- (IDLE, 0)` (R111). -/
def execAdd (s : State) : Host.Outcome State Fault Refusal :=
  .next ((s.setH (addWords s.h s.x)).setSeq Seq.idle)

end Sys2Proof.Machine
end

