-- ==== Sys2Proof/Machine/Command.lean ====
section
/-! DEFINITION. The meanings of the host commands (40_host_commands.md R80 to R84): each is the whole
effect of the step in which the command is accepted. That the engine is idle then is the port's
rule (R86), which Machine/Fetch.lean applies. -/

namespace Sys2Proof.Machine

/-- NOP: every register keeps its value (R80). -/
def execNop (s : State) : Host.Outcome State Fault Refusal := .next s

/-- INIT: `H[i] <- IV[i]` for i = 0 to 7 (R81). -/
def execInit (s : State) : Host.Outcome State Fault Refusal := .next (s.setH iv)

/-- WRB addr, data: `MemWrite(BLOCK, addr, 1, data)` (R82). -/
def execWrb (addr : BitVec 6) (data : Byte) (s : State) : Host.Outcome State Fault Refusal :=
  .next (s.writeBlock (blockAddr addr) data)

/-- RUN: `seq <- (LOAD, 0)` and nothing else; the engine's 115 steps follow (R83). -/
def execRun (s : State) : Host.Outcome State Fault Refusal := .next (s.setSeq Seq.load)

/-- RDD addr: `rsp <- MemRead(DIGEST, addr, 1)`; no register changes (R84). -/
def execRdd (addr : BitVec 5) (s : State) : Host.Outcome State Fault Refusal :=
  .next (s.respond (s.readDigest (digestAddr addr)))

end Sys2Proof.Machine
end

