-- ==== Sys2Proof/Machine/Round.lean ====
section
/-! DEFINITION. The meanings of the round function's micro-operations LDV and RND
(42_round_function.md R105, R106). -/

namespace Sys2Proof.Machine

/-- LDV: `x[i] <- H[i]` for i = 0 to 7; `seq <- (ROUND, 0)` (R105). -/
def execLdv (s : State) : Host.Outcome State Fault Refusal :=
  .next ((s.setX s.h).setSeq Seq.firstRound)

/-- RND: one round with K[t] and W[t], then (ROUND, t+1) or (ADDBACK, 0) (R106). -/
def execRnd (t : BitVec 6) (s : State) : Host.Outcome State Fault Refusal :=
  .next ((s.setX (roundVars s.x (kAt (wordIndex t)) s.w[(wordIndex t).val])).setSeq
    (Seq.afterRound t))

end Sys2Proof.Machine
end

