-- ==== Sys2Proof/Machine/Schedule.lean ====
section
/-! DEFINITION. The meanings of the message schedule's micro-operations LDW and EXP
(41_message_schedule.md R92, R93). -/

namespace Sys2Proof.Machine

/-- LDW: W[0..15] from the block, big-endian; `seq <- (EXPAND, 16)` (R92). -/
def execLdw (s : State) : Host.Outcome State Fault Refusal :=
  .next (s.loadSchedule.setSeq Seq.firstExpand)

/-- EXP: W[t] from W[t-16], W[t-15], W[t-7], W[t-2], then (EXPAND, t+1) or (INITV, 0) (R93). An index
below 16 belongs to no micro-operation (R66, R69): the machine is stuck. -/
def execExp (t : BitVec 6) (s : State) : Host.Outcome State Fault Refusal :=
  if 16 ≤ t.toNat then
    .next ((s.setW (wordIndex t) (expandWord s.w (wordIndex t))).setSeq (Seq.afterExpand t))
  else .fault .stuckSequencer

end Sys2Proof.Machine
end

