-- ==== Sys2Proof/Machine/Dispatch.lean ====
section
/-! DEFINITION. The one dispatch: an arm per row of spec/opcode_table.json. -/

namespace Sys2Proof.Machine

def exec (i : Instr) (s : State) : Host.Outcome State Fault Refusal :=
  match i with
  -- host commands (40_host_commands.md)
  | .nop => Sys2Proof.Machine.execNop s
  | .init => Sys2Proof.Machine.execInit s
  | .wrb addr data => Sys2Proof.Machine.execWrb addr data s
  | .run => Sys2Proof.Machine.execRun s
  | .rdd addr => Sys2Proof.Machine.execRdd addr s
  -- micro-operations (41_message_schedule.md, 42_round_function.md, 43_chaining_update.md)
  | .ldw => Sys2Proof.Machine.execLdw s
  | .exp t => Sys2Proof.Machine.execExp t s
  | .ldv => Sys2Proof.Machine.execLdv s
  | .rnd t => Sys2Proof.Machine.execRnd t s
  | .add => Sys2Proof.Machine.execAdd s

end Sys2Proof.Machine
end

