-- ==== Sys2Proof/WellFormed.lean ====
section
/-! DEFINITION. Which instructions the encodings admit. The field widths bound every operand but
one: EXP's index has the extra condition 16 ≤ t ≤ 63 (30_encoding.md R66). -/

namespace Sys2Proof

/-- The one check beside the field widths: EXP writes W[t] for 16 ≤ t only; a sequencer word
(EXPAND, t) with t < 16 is reserved (R66, R69). -/
def Instr.wellFormed : Instr → Bool
  | .nop => true
  | .init => true
  | .wrb _ _ => true
  | .run => true
  | .rdd _ => true
  | .ldw => true
  | .exp t => decide (16 ≤ t.toNat)
  | .ldv => true
  | .rnd _ => true
  | .add => true

/-- `wellFormed` as a proposition. -/
abbrev Instr.WellFormed (i : Instr) : Prop := i.wellFormed = true

end Sys2Proof
end

