-- ==== Sys2Proof/Decode.lean ====
section
/-! DEFINITION. Decoding and encoding: format C, the 32-bit command word (30_encoding.md R60 to R63,
R68, R70, R73), and format U, the 9-bit sequencer word (R64 to R66, R69). The engine has no byte
order for either (20_memory.md R45), so the decoders read words, not bytes. -/

namespace Sys2Proof

/-- What a decoder answers: an instruction, or a rejection by name. -/
inductive Decoded where
  /-- The word is this instruction. -/
  | instr (i : Instr)
  /-- ILLEGAL(c) of R73: a command word that is none of the five commands (R68). -/
  | illegal (cmd : Word)
  /-- The sequencer word 0x000: no micro-operation, the engine waits for a command (R66). -/
  | idle
  /-- One of the 396 sequencer words that select nothing (R69). -/
  | reserved (seq : BitVec 9)
deriving DecidableEq, Repr

/-- One row of a map of R62 or R66: a word `c` belongs to the row when `c & mask = match`. -/
structure Row (n : Nat) where
  pattern : BitVec n
  mask : BitVec n
deriving DecidableEq, Repr

/-- `(c & mask) = match` (R62). -/
def Row.holds {n : Nat} (r : Row n) (c : BitVec n) : Bool :=
  c &&& r.mask == r.pattern

namespace Row

/-- The row of NOP (R62). -/
def nop : Row 32 := { pattern := 0x00000000#32, mask := 0xFFFFFFFF#32 }
/-- The row of INIT (R62). -/
def init : Row 32 := { pattern := 0x10000000#32, mask := 0xFFFFFFFF#32 }
/-- The row of WRB (R62). -/
def wrb : Row 32 := { pattern := 0x20000000#32, mask := 0xFFFFC000#32 }
/-- The row of RUN (R62). -/
def run : Row 32 := { pattern := 0x30000000#32, mask := 0xFFFFFFFF#32 }
/-- The row of RDD (R62). -/
def rdd : Row 32 := { pattern := 0x40000000#32, mask := 0xFFFFE0FF#32 }
/-- The row of LDW (R66). -/
def ldw : Row 9 := { pattern := 0x040#9, mask := 0x1FF#9 }
/-- The row of EXP (R66), without its extra condition. -/
def exp : Row 9 := { pattern := 0x080#9, mask := 0x1C0#9 }
/-- The row of LDV (R66). -/
def ldv : Row 9 := { pattern := 0x0C0#9, mask := 0x1FF#9 }
/-- The row of RND (R66). -/
def rnd : Row 9 := { pattern := 0x100#9, mask := 0x1C0#9 }
/-- The row of ADD (R66). -/
def add : Row 9 := { pattern := 0x140#9, mask := 0x1FF#9 }

end Row

/-! ## Operand fields -/

/-- WRB's address field `cmd[13:8]` (R61). -/
def wrbAddrField (c : Word) : BitVec 6 := c.extractLsb' 8 6

/-- RDD's address field `cmd[12:8]` (R61). -/
def rddAddrField (c : Word) : BitVec 5 := c.extractLsb' 8 5

/-- The DATA field `cmd[7:0]` (R60, R61). -/
def dataField (c : Word) : Byte := c.extractLsb' 0 8

/-- The index field `seq[5:0]` of a sequencer word (R64). -/
def indexField (q : BitVec 9) : BitVec 6 := q.extractLsb' 0 6

/-! ## Decoders -/

/-- The total decoder of format C, test by test as R73 writes it. -/
def decodeCommand (c : Word) : Decoded :=
  if Row.nop.holds c then .instr .nop
  else if Row.init.holds c then .instr .init
  else if Row.wrb.holds c then .instr (.wrb (wrbAddrField c) (dataField c))
  else if Row.run.holds c then .instr .run
  else if Row.rdd.holds c then .instr (.rdd (rddAddrField c))
  else .illegal c

/-- The total decoder of format U: the map of R66 with EXP's extra condition; every word R66 does
not list is reserved (R69). -/
def decodeSequencer (q : BitVec 9) : Decoded :=
  if q = 0x000#9 then .idle
  else if Row.ldw.holds q then .instr .ldw
  else if Row.exp.holds q && decide (16 ≤ (indexField q).toNat) then .instr (.exp (indexField q))
  else if Row.ldv.holds q then .instr .ldv
  else if Row.rnd.holds q then .instr (.rnd (indexField q))
  else if Row.add.holds q then .instr .add
  else .reserved q

/-- A word of either format. -/
inductive CodeWord where
  /-- A 32-bit command word (format C). -/
  | command (c : Word)
  /-- A 9-bit sequencer word (format U). -/
  | sequencer (q : BitVec 9)
deriving DecidableEq, Repr

/-- Decoding a word of either format. -/
def decode : CodeWord → Decoded
  | .command c => decodeCommand c
  | .sequencer q => decodeSequencer q

/-! ## Encoders -/

/-- `enc(NOP)` (R73). -/
def encNop : Word := 0x00000000#32

/-- `enc(INIT)` (R73). -/
def encInit : Word := 0x10000000#32

/-- `enc(WRB a d) = 0x20000000 + 256·a + d` (R73). -/
def encWrb (a : BitVec 6) (d : Byte) : Word :=
  0x20000000#32 + 256#32 * a.setWidth 32 + d.setWidth 32

/-- `enc(RUN)` (R73). -/
def encRun : Word := 0x30000000#32

/-- `enc(RDD a) = 0x40000000 + 256·a` (R73). -/
def encRdd (a : BitVec 5) : Word := 0x40000000#32 + 256#32 * a.setWidth 32

/-- The word of an instruction: R73's `enc` for a command, R66's pattern for a micro-operation. -/
def encode : Instr → CodeWord
  | .nop => .command encNop
  | .init => .command encInit
  | .wrb a d => .command (encWrb a d)
  | .run => .command encRun
  | .rdd a => .command (encRdd a)
  | .ldw => .sequencer (0b001#3 ++ 0#6)
  | .exp t => .sequencer (0b010#3 ++ t)
  | .ldv => .sequencer (0b011#3 ++ 0#6)
  | .rnd t => .sequencer (0b100#3 ++ t)
  | .add => .sequencer (0b101#3 ++ 0#6)

/-- The instruction of an opcode-table word of `nbits` bits in whole bytes: a format U row has 9 bits
(so 16 in whole bytes), a format C row has 32. The engine gives the word no byte order (R45), so it
goes to the decoder of its format as it stands (notes/assumptions/9.md). -/
def decodeTableWord (nbits w : Nat) : Option Instr :=
  if nbits ≤ 16 then
    if w < 2 ^ 9 then
      match decodeSequencer (BitVec.ofNat 9 w) with
      | .instr i => some i
      | .illegal _ => none
      | .idle => none
      | .reserved _ => none
    else none
  else if nbits = 32 ∧ w < 2 ^ 32 then
    match decodeCommand (BitVec.ofNat 32 w) with
    | .instr i => some i
    | .illegal _ => none
    | .idle => none
    | .reserved _ => none
  else none

end Sys2Proof
end

