-- ==== Sys2Proof/Machine/Fetch.lean ====
section
/-! DEFINITION. Which event the coming step is (60_exceptions.md R144, 00_scope.md R8): reset over
micro-operation over command; and what `rsp_data` carries in it (10_state.md R32). -/

namespace Sys2Proof.Machine

/-- The one event of a step (R144). -/
inductive Event where
  /-- `rst` is asserted: it overrides everything (R144 (a)). -/
  | reset
  /-- The engine is busy and performs the micro-operation its sequencer word selects; a presented
  command is held (R144 (b)). -/
  | perform (i : Instr)
  /-- The engine is idle and accepts a legal command (R144 (c)). -/
  | accept (i : Instr)
  /-- The engine is idle and accepts an illegal command word (R144 (c), R85). -/
  | illegal (cmd : Word)
  /-- The engine is idle and `cmd_valid = 0`: nothing happens (R86). -/
  | quiet
  /-- The sequencer word is one of the reserved words: no step is enabled (R69). -/
  | stuck
deriving DecidableEq, Repr

/-- What a busy engine does: the sequencer word's value alone selects the micro-operation (R64). -/
def engineEvent (q : Seq) : Event :=
  match decodeSequencer q.word with
  | .instr i => .perform i
  | .illegal _ => .stuck
  | .idle => .stuck
  | .reserved _ => .stuck

/-- What accepting the word `c` is (R73, R85). -/
def commandEvent (c : Word) : Event :=
  match decodeCommand c with
  | .instr i => .accept i
  | .illegal cmd => .illegal cmd
  | .idle => .illegal c
  | .reserved _ => .illegal c

/-- The event of the coming step, in the priority R144 gives. -/
def State.event (s : State) : Event :=
  if s.rstPin then .reset
  else if s.busy then engineEvent s.seq
  else if !s.idle then .stuck
  else
    match s.accepted with
    | some c => commandEvent c
    | none => .quiet

/-- The byte an accepted command returns: only RDD returns one (R84). -/
def State.responseOf (s : State) : Instr → Option Byte
  | .nop => none
  | .init => none
  | .wrb _ _ => none
  | .run => none
  | .rdd a => some (s.readDigest (digestAddr a))
  | .ldw => none
  | .exp _ => none
  | .ldv => none
  | .rnd _ => none
  | .add => none

/-- `rsp_data` in the coming step: RDD's byte in the step in which an RDD is accepted, and no value
at any other time (R32, U5). -/
def State.rspData (s : State) : Option Byte :=
  match s.event with
  | .accept i => s.responseOf i
  | .reset => none
  | .perform _ => none
  | .illegal _ => none
  | .quiet => none
  | .stuck => none

end Sys2Proof.Machine
end

