-- ==== Sys2Proof/Machine/Step.lean ====
section
/-! DEFINITION. One step of the machine (00_scope.md R8, R9, 60_exceptions.md R144), and how a word
is put where the machine takes its next instruction from. -/

namespace Sys2Proof.Machine

/-- One step: the event of `State.event`, with the port's moves used up as it says. -/
def step (s : State) : Host.Outcome State Fault Refusal :=
  match s.event with
  | .reset => .next s.held.takeReset
  | .perform i => exec i s.held
  | .accept i => exec i s.consumed
  | .illegal cmd => .next (s.consumed.raiseIllegalCommand cmd)
  | .quiet => .next s.held
  | .stuck => .fault .stuckSequencer

/-- `s` with an opcode-table word where the next step takes its instruction from. The machine has no
instruction memory (R53). A command word is presented on the port of an idle engine; a format U
word is the sequencer word itself, in a step in which the port does nothing
(notes/assumptions/10.md). A word whose phase code names no phase cannot be held and changes nothing. -/
def State.withFetchWord (s : State) (nbits w : Nat) : State :=
  if nbits ≤ 16 then
    match Seq.ofWord (BitVec.ofNat 9 w) with
    | some q => { s with seq := q, stream := .pins false false 0#32 :: s.stream }
    | none => s
  else { s with seq := Seq.idle, stream := .present (BitVec.ofNat 32 w) :: s.stream }

end Sys2Proof.Machine
end

