-- ==== Sys2Proof/Machine/Compress.lean ====
section
/-! DEFINITION. The net effect of one RUN as functions on data, apart from the machine's steps:
Schedule(B) (41_message_schedule.md R94), Rounds(H, W) (42_round_function.md R107), Compress
(43_chaining_update.md R112), the digest (R114). Statements compare the machine with them. -/

namespace Sys2Proof.Machine

/-- The first 16 + n words of Schedule(B); the words after them are zero (R94). -/
def scheduleUpTo (b : Vector Byte 64) : Nat → Vector Word 64
  | 0 => loadWords b (Vector.replicate 64 0#32)
  | n + 1 =>
    let w := scheduleUpTo b n
    if h : 16 + n < 64 then w.set (16 + n) (expandWord w ⟨16 + n, h⟩) h else w

/-- Schedule(B): the 64 words of R94. -/
def schedule (b : Vector Byte 64) : Vector Word 64 := scheduleUpTo b 48

/-- The working variables after rounds 0 to n-1, starting from `h` (R107). -/
def roundsUpTo (h : Vector Word 8) (w : Vector Word 64) : Nat → Vector Word 8
  | 0 => h
  | n + 1 =>
    let x := roundsUpTo h w n
    if hn : n < 64 then roundVars x (kAt ⟨n, hn⟩) w[n] else x

/-- Rounds(H, W): the 64 rounds in order (R107). -/
def rounds (h : Vector Word 8) (w : Vector Word 64) : Vector Word 8 := roundsUpTo h w 64

/-- Compress(H, B) (R112). -/
def compress (h : Vector Word 8) (b : Vector Byte 64) : Vector Word 8 :=
  addWords h (rounds h (schedule b))

/-- H after the blocks of a message, in order: H_n = Compress(H_{n-1}, M_n) (R113). -/
def compressAll (h : Vector Word 8) (blocks : List (Vector Byte 64)) : Vector Word 8 :=
  blocks.foldl compress h

/-- The 32 digest bytes DIGEST[0..31] of a chaining state (R114). -/
def digestBytes (h : Vector Word 8) : List Byte := (List.finRange 32).map (digestByte h)

end Sys2Proof.Machine
end

