-- ==== Sys2Proof/Machine/HostDriver.lean ====
section
/-! DEFINITION. The host's side, outside the engine (00_scope.md R5): command programs and
pseudo-commands (30_encoding.md R71, R72), padding, segmentation and the hash procedure
(44_host_driver.md R120 to R125). No step of the machine reads any of it. -/

namespace Sys2Proof.Machine

/-! ## Command programs (R71, R72) -/

/-- The host presents a program's command words in list order, each as soon as the engine is ready
(R71). -/
def presentAll (program : List Word) : List HostMove := program.map HostMove.present

/-- `WRBLK b0, …, b63`: 64 WRB commands, ascending address (R72). -/
def wrblk (block : Vector Byte 64) : List Word :=
  (List.finRange 64).map fun j => encWrb (BitVec.ofFin j) block[j.val]

/-- `HASHBLK b0, …, b63`: WRBLK, then RUN (R72). -/
def hashblk (block : Vector Byte 64) : List Word := wrblk block ++ [encRun]

/-- `RDDIGEST`: 32 RDD commands, ascending address (R72). -/
def rddigest : List Word := (List.finRange 32).map fun j => encRdd (BitVec.ofFin j)

/-- One command in the syntax of R71, numbers in decimal; a micro-operation has no syntax. -/
def asmOf : Instr → Option String
  | .nop => some "NOP"
  | .init => some "INIT"
  | .wrb a d => some ("WRB " ++ toString a.toNat ++ ", " ++ toString d.toNat)
  | .run => some "RUN"
  | .rdd a => some ("RDD " ++ toString a.toNat)
  | .ldw => none
  | .exp _ => none
  | .ldv => none
  | .rnd _ => none
  | .add => none

/-! ## Padding and segmentation -/

/-- Why the host's software rejects a call, before any engine command. -/
inductive HostError where
  /-- A message of 2^61 bytes or more: its bit length does not fit the 64-bit field (R125). -/
  | messageTooLong
  /-- HKDF asked for more than 255 blocks of output (45_surrounding_software.md R135). -/
  | usageError
deriving DecidableEq, Repr

/-- `be64(v)`: the 8 bytes of a 64-bit value, most significant first (R122). -/
def be64 (v : BitVec 64) : List Byte :=
  (List.finRange 8).map fun i => v.extractLsb' (56 - 8 * i.val) 8

/-- `z = (55 − n) mod 64`, the number of zero bytes for an n-byte message (R122). -/
def zeroBytes (n : Nat) : Nat := (((55 : Int) - n) % 64).toNat

/-- `PAD(m) = m || 0x80 || (z bytes 0x00) || be64(8n)` (R122). -/
def pad (m : List Byte) : List Byte :=
  m ++ [0x80#8] ++ List.replicate (zeroBytes m.length) 0x00#8 ++ be64 (BitVec.ofNat 64 (8 * m.length))

/-- Block number k (from 0) of a padded message: bytes 64k to 64k+63 (R123). -/
def blockAt (p : List Byte) (k : Nat) : Vector Byte 64 :=
  Vector.ofFn fun j => p.getD (64 * k + j.val) 0x00#8

/-- SPLIT: the blocks of a padded message, first block first (R123). -/
def split (p : List Byte) : List (Vector Byte 64) :=
  (List.range (p.length / 64)).map (blockAt p)

/-- The number of blocks of an n-byte message (R122). -/
def blockCount (n : Nat) : Nat := (n + 8) / 64 + 1

/-! ## The hash procedure -/

/-- HASH as a command program: INIT, HASHBLK for each block, RDDIGEST (R124). -/
def hashCommands (m : List Byte) : List Word :=
  [encInit] ++ ((split (pad m)).map hashblk).flatten ++ rddigest

/-- The host refuses a message of 2^61 bytes or more and issues no command (R125). -/
def hashProgram (m : List Byte) : Except HostError (List Word) :=
  if m.length < 2 ^ 61 then .ok (hashCommands m) else .error .messageTooLong

/-- The digest the procedure is to return: the DIGEST bytes of H_N, from H_0 = IV (R113, R114). -/
def sha256Bytes (m : List Byte) : List Byte := digestBytes (compressAll iv (split (pad m)))

/-- `hash(m)`, or the refusal of R125. -/
def sha256 (m : List Byte) : Except HostError (List Byte) :=
  if m.length < 2 ^ 61 then .ok (sha256Bytes m) else .error .messageTooLong

end Sys2Proof.Machine
end

