-- ==== Sys2Proof/Machine/Software.lean ====
section
/-! DEFINITION. The surrounding software HMAC-SHA256 and HKDF (45_surrounding_software.md R130 to
R136), as functions over `sha256`. It is outside the hardware (00_scope.md R5): no step of the
machine reads any of it. -/

namespace Sys2Proof.Machine

/-- Zero-pad on the right to 64 bytes (R131). -/
def zeroPad64 (k : List Byte) : List Byte := k ++ List.replicate (64 - k.length) 0x00#8

/-- HMAC key normalisation to 64 bytes (R131). -/
def hmacKey (key : List Byte) : Except HostError (List Byte) :=
  if key.length ≤ 64 then .ok (zeroPad64 key)
  else (sha256 key).map zeroPad64

/-- `hmac(key, message)`: hash(outer_pad || hash(inner_pad || message)) (R132). -/
def hmac (key message : List Byte) : Except HostError (List Byte) :=
  (hmacKey key).bind fun k =>
    (sha256 (k.map (· ^^^ 0x36#8) ++ message)).bind fun inner =>
      sha256 (k.map (· ^^^ 0x5c#8) ++ inner)

/-- HKDF extract: PRK = hmac(salt, ikm), with no substitution for an empty salt (R133). -/
def hkdfExtract (ikm salt : List Byte) : Except HostError (List Byte) := hmac salt ikm

/-- HKDF expand, n blocks: the pair of T(n) and T(1) || … || T(n) (R134). -/
def hkdfBlocks (prk info : List Byte) : Nat → Except HostError (List Byte × List Byte)
  | 0 => .ok ([], [])
  | n + 1 =>
    (hkdfBlocks prk info n).bind fun (t, okm) =>
      (hmac prk (t ++ info ++ [BitVec.ofNat 8 (n + 1)])).map fun t' => (t', okm ++ t')

/-- `N = ceil(length / 32)` (R134). -/
def hkdfCount (length : Nat) : Nat := (length + 31) / 32

/-- `derive(length, ikm, salt, info)`: OKM truncated to `length` bytes, or a usage error when
N > 255 (R133 to R135). -/
def hkdfDerive (length : Nat) (ikm salt info : List Byte) : Except HostError (List Byte) :=
  if hkdfCount length ≤ 255 then
    (hkdfExtract ikm salt).bind fun prk =>
      (hkdfBlocks prk info (hkdfCount length)).map fun (_, okm) => okm.take length
  else .error .usageError

end Sys2Proof.Machine
end

