-- ==== Sys2Proof/Safety.lean ====
section
/-! DEFINITION. What claims about runs are stated in: legal sequencer words (10_state.md R26), the
states a run may end in (70_reset_and_hazards.md R168), a port that asserts no reset, and what a
compression in flight has computed so far (41_message_schedule.md R94, 42_round_function.md R107). -/

namespace Sys2Proof.Machine

/-- `n` steps of the machine, stopping at the first fault or refusal; the host's `Host.Core.run` of this
machine. -/
def run : Nat → State → Host.Outcome State Fault Refusal
  | 0, s => .next s
  | n + 1, s =>
    match step s with
    | .next t => run n t
    | .fault r => .fault r
    | .refused r => .refused r

/-- The sequencer word is one of the 116 values of R26. -/
abbrev State.SeqLegal (s : State) : Prop := s.seq.legal = true

/-- A run of a command program is over: every command has been accepted and the engine is idle
(R168). -/
abbrev State.RunOver (s : State) : Prop := s.stream = [] ∧ s.seq = Seq.idle

/-- No reset is asserted in the next `n` steps, none of which accepts a command: the moves a busy
engine sees. A held command stays presented, so nothing after it is reached. -/
def noResetFor : Nat → List HostMove → Bool
  | 0, _ => true
  | _ + 1, [] => true
  | _ + 1, .present _ :: _ => true
  | n + 1, .pins r _ _ :: rest => !r && noResetFor n rest

/-- The host moves left after `n` steps that accept no command. -/
def heldFor : Nat → List HostMove → List HostMove
  | 0, l => l
  | n + 1, l => heldFor n (heldStream l)

/-- What a compression in flight has computed, phase by phase: the schedule words expanded so far are
Schedule(B)'s (R94), and the working variables are those of the rounds done so far, from H (R107). -/
def State.CompressionCorrect (s : State) : Prop :=
  match s.seq.phase with
  | .idle => True
  | .load => True
  | .expand => ∀ i : Fin 64, i.val < s.seq.t.toNat → s.w[i.val] = (schedule s.b)[i.val]
  | .initv => s.w = schedule s.b
  | .round => s.w = schedule s.b ∧ s.x = roundsUpTo s.h (schedule s.b) s.seq.t.toNat
  | .addback => s.x = rounds s.h (schedule s.b)

end Sys2Proof.Machine
end

