-- ==== Sys2Proof/Certificates/Slice0/Obligations.lean ====
section
/-! DEFINITION. The statements for the provers, from the numbered rules of spec/. A frame is written
`t = { s with … }`: every field not listed is unchanged, the model's own fields among them. Where
`stream` or `responses` occurs, it is the host's side of the closed system, what it is still to do
on the port and what it has received, outside the engine (notes/assumptions/1.md, 2.md). -/

open Sys2Proof Sys2Proof.Machine

/-! ## Encoding and decoding -/

/-- Decoding the encoding of any well-formed instruction of the table, with any operands, gives it
back: both formats (R64, R66, R73). -/
def Obligations.DecodeOfEncodeIsTheInstruction : Prop :=
  ∀ i : Instr, i.WellFormed → decode (encode i) = .instr i

/-- R73: the decoder of format C answers as its six cases say, `enc` has the values given there, and
each is the other's inverse. -/
def Obligations.CommandDecoderAndEncoderAreInverse : Prop :=
  (∀ c : Word, decodeCommand c =
    if c = 0x00000000#32 then .instr .nop
    else if c = 0x10000000#32 then .instr .init
    else if c &&& 0xFFFFC000#32 = 0x20000000#32 then
      .instr (.wrb (c.extractLsb' 8 6) (c.extractLsb' 0 8))
    else if c = 0x30000000#32 then .instr .run
    else if c &&& 0xFFFFE0FF#32 = 0x40000000#32 then .instr (.rdd (c.extractLsb' 8 5))
    else .illegal c) ∧
  encode .nop = .command 0x00000000#32 ∧
  encode .init = .command 0x10000000#32 ∧
  (∀ (a : BitVec 6) (d : Byte), ∃ c : Word, encode (.wrb a d) = .command c ∧
    c.toNat = 0x20000000 + 256 * a.toNat + d.toNat) ∧
  encode .run = .command 0x30000000#32 ∧
  (∀ a : BitVec 5, ∃ c : Word, encode (.rdd a) = .command c ∧
    c.toNat = 0x40000000 + 256 * a.toNat) ∧
  (∀ i : Instr, i.agent = .host → decode (encode i) = .instr i) ∧
  (∀ (c : Word) (i : Instr), decodeCommand c = .instr i → encode i = .command c)

/-- R62: a word is the named command exactly when `(cmd & mask) = match`, with its operands where the
pattern has `a` and `d`; no word is two of them; 16419 words are legal. -/
def Obligations.CommandMapHasDisjointRows : Prop :=
  (∀ c : Word,
    (decodeCommand c = .instr .nop ↔ c &&& 0xFFFFFFFF#32 = 0x00000000#32) ∧
    (decodeCommand c = .instr .init ↔ c &&& 0xFFFFFFFF#32 = 0x10000000#32) ∧
    ((∃ a d, decodeCommand c = .instr (.wrb a d)) ↔ c &&& 0xFFFFC000#32 = 0x20000000#32) ∧
    (∀ a d, decodeCommand c = .instr (.wrb a d) → a = c.extractLsb' 8 6 ∧ d = c.extractLsb' 0 8) ∧
    (decodeCommand c = .instr .run ↔ c &&& 0xFFFFFFFF#32 = 0x30000000#32) ∧
    ((∃ a, decodeCommand c = .instr (.rdd a)) ↔ c &&& 0xFFFFE0FF#32 = 0x40000000#32) ∧
    (∀ a, decodeCommand c = .instr (.rdd a) → a = c.extractLsb' 8 5)) ∧
  List.Pairwise (fun r r' : Word × Word => ∀ c : Word, ¬(c &&& r.2 = r.1 ∧ c &&& r'.2 = r'.1))
    [(0x00000000#32, 0xFFFFFFFF#32), (0x10000000#32, 0xFFFFFFFF#32),
     (0x20000000#32, 0xFFFFC000#32), (0x30000000#32, 0xFFFFFFFF#32),
     (0x40000000#32, 0xFFFFE0FF#32)] ∧
  Set.ncard {c : Word | ∃ i, decodeCommand c = .instr i} = 16419

/-- R68: which command words are illegal, how many there are, and that accepting one sets ERR and
changes nothing else. -/
def Obligations.IllegalCommandWordsAreExactlyThese : Prop :=
  (∀ c : Word,
    ((∀ i, decodeCommand c ≠ .instr i) ↔
      5 ≤ (c.extractLsb' 28 4).toNat ∨
      c.extractLsb' 16 12 ≠ 0#12 ∨
      (c.extractLsb' 28 4 ∈ [0x0#4, 0x1#4, 0x3#4] ∧ c.extractLsb' 0 28 ≠ 0#28) ∨
      (c.extractLsb' 28 4 = 0x2#4 ∧ c.extractLsb' 14 2 ≠ 0#2) ∨
      (c.extractLsb' 28 4 = 0x4#4 ∧ (c.extractLsb' 13 3 ≠ 0#3 ∨ c.extractLsb' 0 8 ≠ 0#8)))) ∧
  Set.ncard {c : Word | ∀ i, decodeCommand c ≠ .instr i} = 2 ^ 32 - 16419 ∧
  (∀ s : State, ∀ c : Word, s.seq = { phase := .idle, t := 0#6 } → s.accepted = some c →
    (∀ i, decodeCommand c ≠ .instr i) →
      step s = .next { s with err := true, stream := s.stream.tail })

/-- The map of R66 over all 512 sequencer words: the five rows with EXP's extra condition, 0x000
selects no micro-operation, and every other word selects nothing (R66, R69: 396 of them). -/
def Obligations.SequencerMapSelectsByWordAlone : Prop :=
  (∀ q : BitVec 9,
    (decodeSequencer q = .instr .ldw ↔ q &&& 0x1FF#9 = 0x040#9) ∧
    (decodeSequencer q = .instr (.exp (q.extractLsb' 0 6)) ↔
      q &&& 0x1C0#9 = 0x080#9 ∧ 16 ≤ (q.extractLsb' 0 6).toNat) ∧
    (decodeSequencer q = .instr .ldv ↔ q &&& 0x1FF#9 = 0x0C0#9) ∧
    (decodeSequencer q = .instr (.rnd (q.extractLsb' 0 6)) ↔ q &&& 0x1C0#9 = 0x100#9) ∧
    (decodeSequencer q = .instr .add ↔ q &&& 0x1FF#9 = 0x140#9) ∧
    (decodeSequencer q = .idle ↔ q = 0x000#9)) ∧
  ((List.finRange 512).filter fun q =>
    decide (decodeSequencer (BitVec.ofFin q) = .reserved (BitVec.ofFin q))).length = 396

/-- Words written out from R62 and R66 decode to the instructions they stand for. -/
def Obligations.WrittenOutWordsDecode : Prop :=
  decodeCommand 0b00000000000000000000000000000000#32 = .instr .nop ∧
  decodeCommand 0b00010000000000000000000000000000#32 = .instr .init ∧
  decodeCommand 0b00100000000000000011111100011000#32 = .instr (.wrb 0x3F#6 0x18#8) ∧
  decodeCommand 0b00110000000000000000000000000000#32 = .instr .run ∧
  decodeCommand 0b01000000000000000001111100000000#32 = .instr (.rdd 0x1F#5) ∧
  decodeCommand 0b00100000000000000100000000000000#32 = .illegal 0x20004000#32 ∧
  decodeSequencer 0b001000000#9 = .instr .ldw ∧
  decodeSequencer 0b010010000#9 = .instr (.exp 16#6) ∧
  decodeSequencer 0b011000000#9 = .instr .ldv ∧
  decodeSequencer 0b100111111#9 = .instr (.rnd 63#6) ∧
  decodeSequencer 0b101000000#9 = .instr .add ∧
  decodeSequencer 0b010001111#9 = .reserved 0x08F#9

/-! ## The step -/

/-- A step is `exec` of the instruction its word decodes to (R64, R86). A busy engine's word is the
sequencer word, and a presented command is held meanwhile; an idle engine's word is the accepted
command word, whose move on the port is then over. -/
def Obligations.StepRunsTheDecodedInstruction : Prop :=
  (∀ (s : State) (i : Instr), s.rstPin = false → s.seq.phase ≠ .idle →
    decodeSequencer s.seq.word = .instr i →
      step s = exec i { s with stream := heldStream s.stream }) ∧
  (∀ (s : State) (c : Word) (i : Instr), s.seq = { phase := .idle, t := 0#6 } →
    s.accepted = some c → decodeCommand c = .instr i →
      step s = exec i { s with stream := s.stream.tail })

/-- R34: reset, in any state, busy ones among them: seq = (IDLE, 0) and ERR = 0, and these, the port and
the responses are the same whatever was in flight, so no micro-operation of it executes; no
command is accepted. Nothing is said of the data state. -/
def Obligations.ResetTakesEffectInAnyState : Prop :=
  ∀ s : State, s.rstPin = true →
    s.accepted = none ∧
    ∃ t, step s = .next t ∧ t.seq = { phase := .idle, t := 0#6 } ∧ t.err = false ∧
      ∀ q : Seq, ∃ u, step { s with seq := q } = .next u ∧ u.seq = t.seq ∧ u.err = t.err ∧
        u.stream = t.stream ∧ u.responses = t.responses

/-- Reset draws the data state anew, by the model's choice (notes/assumptions/3.md): the draw is free to
depend on what the engine holds, so nothing is said of erasure or survival (R35, R156, R166); it
does not depend on ERR (R27), and what the host holds does not reach it. The move on the port is
over and bytes returned earlier stay returned. -/
def Obligations.ResetDrawsTheDataStateAnew : Prop :=
  ∀ s : State, s.rstPin = true → ∃ t, step s = .next t ∧
    t.toDataState = Config.resetDraw s.draws s.seq.word s.toDataState ∧
    t.stream = s.stream.tail ∧ t.responses = s.responses ∧ t.draws = s.draws + 1

/-- What the spec gives the state after reset (R33): the control state and the idle port. Nothing is
said of H, x, W and B, which R33 leaves unspecified. -/
def Obligations.ResetStateIsIdleAndReady : Prop :=
  State.reset.seq = { phase := .idle, t := 0#6 } ∧ State.reset.err = false ∧
  State.reset.cmdReady = true ∧ State.reset.busy = false ∧ State.reset.errPin = false

/-- R85: the acceptance of an illegal command word: ERR is set and nothing else changes (the word's move
on the port is over); with ERR already 1 nothing changes. The five example words are illegal. -/
def Obligations.IllegalCommandSetsErrOnly : Prop :=
  (∀ (s : State) (c : Word), s.seq = { phase := .idle, t := 0#6 } → s.accepted = some c →
    decodeCommand c = .illegal c →
      step s = .next { s with err := true, stream := s.stream.tail } ∧
      (s.err = true → step s = .next { s with stream := s.stream.tail })) ∧
  (∀ c ∈ [0x50000000#32, 0x20004000#32, 0x40002000#32, 0x30000001#32, 0x00010000#32],
    decodeCommand c = .illegal c)

/-- R86: when a command is accepted; its whole effect is in that step, and RDD's byte is on `rsp_data`
then; while the engine is busy it is held, and is still presented when the engine is idle again,
115 steps after the RUN; `cmd_valid = 0` leaves an idle engine unchanged. -/
def Obligations.BusyEngineHoldsThePresentedCommand : Prop :=
  (∀ (s : State) (c : Word), s.accepted = some c ↔
    s.cmdValidPin = true ∧ s.seq.phase = .idle ∧ s.rstPin = false ∧ s.cmdPin = c) ∧
  (∀ (s : State) (c : Word) (i : Instr), s.seq = { phase := .idle, t := 0#6 } →
    s.accepted = some c → decodeCommand c = .instr i →
      step s = exec i { s with stream := s.stream.tail }) ∧
  (∀ (s : State) (c : Word) (a : BitVec 5), s.seq = { phase := .idle, t := 0#6 } →
    s.accepted = some c → decodeCommand c = .instr (.rdd a) →
      s.rspData = some (s.readDigest (digestAddr a))) ∧
  (∀ (s : State) (c : Word) (rest : List HostMove), s.SeqLegal → s.busy = true →
    s.stream = .present c :: rest →
      (∃ t, step s = .next t ∧ t.stream = s.stream ∧ t.err = s.err ∧ t.responses = s.responses) ∧
      ∃ n ≤ 115, (s.seq = { phase := .load, t := 0#6 } → n = 115) ∧
        ∃ t, run n s = .next t ∧ t.seq = { phase := .idle, t := 0#6 } ∧
        t.stream = s.stream ∧ t.err = s.err ∧ t.responses = s.responses ∧ t.accepted = some c) ∧
  (∀ s : State, s.seq = { phase := .idle, t := 0#6 } → s.rstPin = false → s.cmdValidPin = false →
    step s = .next { s with stream := heldStream s.stream })

/-- A command presented to a busy engine for one step and withdrawn is never executed: the step is
the one an idle port would have given (R160). -/
def Obligations.WithdrawnCommandIsNeverExecuted : Prop :=
  ∀ (s : State) (c : Word) (rest : List HostMove), s.SeqLegal → s.busy = true →
    s.stream = .pins false true c :: rest →
      ∃ t, step s = .next t ∧ step { s with stream := .pins false false 0#32 :: rest } = .next t ∧
        t.stream = rest ∧ t.err = s.err ∧ t.responses = s.responses ∧ t.b = s.b

/-- R87: no command raises anything, writes ERR or depends on it; every one but RUN leaves seq. -/
def Obligations.LegalCommandsNeitherFailNorTouchErr : Prop :=
  ∀ (i : Instr) (s : State), i.agent = .host →
    ∃ t, exec i s = .next t ∧ t.err = s.err ∧ (i ≠ .run → t.seq = s.seq) ∧
      ∀ e : Bool, exec i { s with err := e } = .next { t with err := e }

/-! ## The instructions -/

/-- R80: NOP, word 0x00000000, keeps every register; presented while the engine is busy it is held. -/
def Obligations.NopKeepsEverything : Prop :=
  decodeCommand 0x00000000#32 = .instr .nop ∧ (∀ s : State, exec .nop s = .next s) ∧
  (∀ s : State, s.seq = { phase := .idle, t := 0#6 } → s.accepted = some 0x00000000#32 →
    step s = .next { s with stream := s.stream.tail }) ∧
  (∀ (s : State) (rest : List HostMove), s.SeqLegal → s.busy = true →
    s.stream = .present 0x00000000#32 :: rest →
      s.accepted = none ∧ ∃ t, step s = .next t ∧ t.stream = s.stream)

/-- R81: INIT, word 0x10000000, loads the IV into H and changes nothing else; twice is the same as
once; then RDD 0 returns 0x6A and RDD 31 returns 0x19. -/
def Obligations.InitLoadsTheInitialValue : Prop :=
  decodeCommand 0x10000000#32 = .instr .init ∧
  ∀ s : State, ∃ t, exec .init s = .next t ∧ t = { s with h := t.h } ∧
    t.h = #v[0x6A09E667#32, 0xBB67AE85#32, 0x3C6EF372#32, 0xA54FF53A#32,
             0x510E527F#32, 0x9B05688C#32, 0x1F83D9AB#32, 0x5BE0CD19#32] ∧
    exec .init t = .next t ∧
    exec (.rdd 0#5) t = .next { t with responses := t.responses ++ [0x6A#8] } ∧
    exec (.rdd 31#5) t = .next { t with responses := t.responses ++ [0x19#8] }

/-- R82: WRB addr, data, the word 0x20000000 + 256·addr + data, sets B[addr] to data and leaves every
other byte and every register; writing an address twice keeps the later value, and two addresses
may be written in either order; an address above 63 is an illegal command word. -/
def Obligations.WrbWritesOneBlockByte : Prop :=
  (∀ (a : BitVec 6) (d d' : Byte) (s : State),
    decodeCommand (BitVec.ofNat 32 (0x20000000 + 256 * a.toNat + d.toNat)) = .instr (.wrb a d) ∧
    ∃ t, exec (.wrb a d) s = .next t ∧ t = { s with b := t.b } ∧
      t.readBlock (blockAddr a) = d ∧
      (∀ j : Fin 64, j ≠ blockAddr a → t.readBlock j = s.readBlock j) ∧
      (blockAddr a).val = a.toNat ∧
      exec (.wrb a d') t = exec (.wrb a d') s) ∧
  (∀ (a a' : BitVec 6) (d d' : Byte) (s t t' : State), a ≠ a' →
    exec (.wrb a d) s = .next t → exec (.wrb a' d') s = .next t' →
      exec (.wrb a' d') t = exec (.wrb a d) t') ∧
  (∀ c : Word, c.extractLsb' 28 4 = 2#4 → 63 < (c.extractLsb' 8 8).toNat →
    decodeCommand c = .illegal c) ∧
  decodeCommand 0x20000061#32 = .instr (.wrb 0x00#6 0x61#8) ∧
  decodeCommand 0x20003F18#32 = .instr (.wrb 0x3F#6 0x18#8)

/-- The accepting step of RUN (R83): seq = (LOAD, 0) and nothing else. -/
def Obligations.RunStartsTheSequencer : Prop :=
  decodeCommand 0x30000000#32 = .instr .run ∧
  ∀ s : State, exec .run s = .next { s with seq := { phase := .load, t := 0#6 } }

/-- RDD addr, the word 0x40000000 + 256·addr, returns H[addr div 4][31-8r : 24-8r] with r = addr mod 4
and changes no register (R84, R43). That the byte joins `responses` is the model's choice
(notes/assumptions/2.md). -/
def Obligations.RddReturnsTheDigestByte : Prop :=
  ∀ (a : BitVec 5) (s : State),
    decodeCommand (BitVec.ofNat 32 (0x40000000 + 256 * a.toNat)) = .instr (.rdd a) ∧
    ∃ (t : State) (v : Byte) (i : Fin 8), exec (.rdd a) s = .next t ∧
      t = { s with responses := s.responses ++ [v] } ∧
      i.val = a.toNat / 4 ∧
      v.toNat = s.h[i.val].toNat / 2 ^ (24 - 8 * (a.toNat % 4)) % 2 ^ 8

/-- R92: LDW, selected by (LOAD, 0), builds W[i] from B[4i], B[4i+1], B[4i+2], B[4i+3], the first most
significant (R41), for i = 0 to 15; W[16..63] are kept; seq becomes (EXPAND, 16). -/
def Obligations.LdwLoadsSixteenBigEndianWords : Prop :=
  decodeSequencer (Seq.word { phase := .load, t := 0#6 }) = .instr .ldw ∧
  ∀ s : State, ∃ t, exec .ldw s = .next t ∧
    t = { s with w := t.w, seq := { phase := .expand, t := 16#6 } } ∧
    (∀ i : Fin 16, t.w[i.val].toNat =
      s.b[4 * i.val].toNat * 2 ^ 24 + s.b[4 * i.val + 1].toNat * 2 ^ 16 +
        s.b[4 * i.val + 2].toNat * 2 ^ 8 + s.b[4 * i.val + 3].toNat) ∧
    (∀ i : Fin 64, 16 ≤ i.val → t.w[i.val] = s.w[i.val])

/-- R93: EXP, selected by (EXPAND, t), writes W[t] and seq and nothing else. -/
def Obligations.ExpExpandsOneScheduleWord : Prop :=
  ∀ (k : BitVec 6) (s : State), 16 ≤ k.toNat →
    decodeSequencer (Seq.word { phase := .expand, t := k }) = .instr (.exp k) ∧
    ∃ t, exec (.exp k) s = .next t ∧ t = { s with w := t.w, seq := t.seq } ∧
      t.w[k.toFin.val] = s.w[k.toFin.val - 16] + ssig0 s.w[k.toFin.val - 15] +
        s.w[k.toFin.val - 7] + ssig1 s.w[k.toFin.val - 2] ∧
      (∀ i : Fin 64, i.val ≠ k.toNat → t.w[i.val] = s.w[i.val]) ∧
      t.seq = if k.toNat < 63 then { phase := .expand, t := k + 1#6 }
        else { phase := .initv, t := 0#6 }

/-- EXP with an index below 16 belongs to no micro-operation and is stuck (R66, R69). -/
def Obligations.ExpBelowSixteenIsStuck : Prop :=
  ∀ (k : BitVec 6) (s : State), k.toNat < 16 → exec (.exp k) s = .fault .stuckSequencer

/-- R105: LDV, selected by (INITV, 0), copies H[0..7] to a..h; H is unchanged; seq = (ROUND, 0). -/
def Obligations.LdvLoadsTheWorkingVariables : Prop :=
  decodeSequencer (Seq.word { phase := .initv, t := 0#6 }) = .instr .ldv ∧
  ∀ s : State, ∃ t, exec .ldv s = .next t ∧
    t = { s with x := t.x, seq := { phase := .round, t := 0#6 } } ∧
    (∀ i : Fin 8, t.x[i.val] = s.h[i.val])

/-- R106: RND, selected by (ROUND, t), every right-hand side on the values before the step. -/
def Obligations.RndPerformsOneRound : Prop :=
  ∀ (k : BitVec 6) (s : State),
    decodeSequencer (Seq.word { phase := .round, t := k }) = .instr (.rnd k) ∧
    ∃ t, exec (.rnd k) s = .next t ∧ t = { s with x := t.x, seq := t.seq } ∧
      ∃ t1 t2 : Word,
        t1 = s.x[7] + bsig1 s.x[4] + ch s.x[4] s.x[5] s.x[6] + kAt k.toFin + s.w[k.toFin.val] ∧
        t2 = bsig0 s.x[0] + maj s.x[0] s.x[1] s.x[2] ∧
        t.x[7] = s.x[6] ∧ t.x[6] = s.x[5] ∧ t.x[5] = s.x[4] ∧ t.x[4] = s.x[3] + t1 ∧
        t.x[3] = s.x[2] ∧ t.x[2] = s.x[1] ∧ t.x[1] = s.x[0] ∧ t.x[0] = t1 + t2 ∧
        t.seq = if k.toNat < 63 then { phase := .round, t := k + 1#6 }
          else { phase := .addback, t := 0#6 }

/-- R111: ADD, selected by (ADDBACK, 0): eight independent sums modulo 2^32; seq = (IDLE, 0). -/
def Obligations.AddAddsBackWordByWord : Prop :=
  decodeSequencer (Seq.word { phase := .addback, t := 0#6 }) = .instr .add ∧
  ∀ s : State, ∃ t, exec .add s = .next t ∧
    t = { s with h := t.h, seq := { phase := .idle, t := 0#6 } } ∧ t.cmdReady = true ∧
    (∀ i : Fin 8, t.h[i.val].toNat = (s.h[i.val].toNat + s.x[i.val].toNat) % 2 ^ 32)

/-- RDD, WRB, INIT and NOP are idempotent, and RDD changes no register and returns the same byte again
(R48). -/
def Obligations.CommandsButRunAreIdempotent : Prop :=
  ∀ (i : Instr) (s t : State), i.agent = .host → i ≠ .run → exec i s = .next t →
    ∃ u, exec i t = .next u ∧ u = { t with responses := u.responses } ∧
      ∀ a : BitVec 5, i = .rdd a →
        t = { s with responses := t.responses } ∧
        ∃ v : Byte, t.responses = s.responses ++ [v] ∧ u.responses = t.responses ++ [v]

/-! ## The word functions and the tables -/

/-- The operators of R11 bit by bit: `rotr` is a rotation of the 32-bit word, `>>` fills with zeros. -/
def Obligations.RotateAndShiftMoveBits : Prop :=
  ∀ (x : Word) (n i : Nat), 0 < n → n < 32 → i < 32 →
    (rotr x n).getLsbD i = x.getLsbD ((i + n) % 32) ∧
    (shr x n).getLsbD i = (decide (i + n < 32) && x.getLsbD (i + n))

/-- R90, R91: σ0 and σ1 bit by bit, with the values the rules list. -/
def Obligations.SmallSigmasRotateAndShift : Prop :=
  (∀ (x : Word) (i : Nat), i < 32 →
    (ssig0 x).getLsbD i = ((x.getLsbD ((i + 7) % 32) ^^ x.getLsbD ((i + 18) % 32)) ^^
      (decide (i + 3 < 32) && x.getLsbD (i + 3))) ∧
    (ssig1 x).getLsbD i = ((x.getLsbD ((i + 17) % 32) ^^ x.getLsbD ((i + 19) % 32)) ^^
      (decide (i + 10 < 32) && x.getLsbD (i + 10)))) ∧
  [0x00000000#32, 0x00000001#32, 0x80000000#32, 0xFFFFFFFF#32, 0x12345678#32, 0x00000018#32].map
      ssig0 =
    [0x00000000#32, 0x02004000#32, 0x11002000#32, 0x1FFFFFFF#32, 0xE7FCE6EE#32, 0x30060003#32] ∧
  [0x00000000#32, 0x00000001#32, 0x80000000#32, 0xFFFFFFFF#32, 0x12345678#32, 0x00000018#32,
      0x61626380#32].map ssig1 =
    [0x00000000#32, 0x0000A000#32, 0x00205000#32, 0x003FFFFF#32, 0xA1F78649#32, 0x000F0000#32,
      0x7DA86405#32]

/-- R100, R101: Σ0 and Σ1 bit by bit, with the values the rules list. -/
def Obligations.BigSigmasRotate : Prop :=
  (∀ (x : Word) (i : Nat), i < 32 →
    (bsig0 x).getLsbD i = ((x.getLsbD ((i + 2) % 32) ^^ x.getLsbD ((i + 13) % 32)) ^^
      x.getLsbD ((i + 22) % 32)) ∧
    (bsig1 x).getLsbD i = ((x.getLsbD ((i + 6) % 32) ^^ x.getLsbD ((i + 11) % 32)) ^^
      x.getLsbD ((i + 25) % 32))) ∧
  [0x00000000#32, 0x00000001#32, 0x80000000#32, 0xFFFFFFFF#32, 0x12345678#32, 0x6A09E667#32].map
      bsig0 =
    [0x00000000#32, 0x40080400#32, 0x20040200#32, 0xFFFFFFFF#32, 0x66146474#32, 0xCE20B47E#32] ∧
  [0x00000000#32, 0x00000001#32, 0x80000000#32, 0xFFFFFFFF#32, 0x12345678#32, 0x510E527F#32].map
      bsig1 =
    [0x00000000#32, 0x04200080#32, 0x02100040#32, 0xFFFFFFFF#32, 0x3561ABDA#32, 0x3587272B#32]

/-- R102, R103: Ch chooses f or g by the bit of e and its xor is an or; Maj is 1 where at least two of
the three bits are 1, and is symmetric; with the values the rules list. -/
def Obligations.ChChoosesAndMajIsTheMajority : Prop :=
  (∀ (x y z : Word) (i : Nat), i < 32 →
    (ch x y z).getLsbD i = (if x.getLsbD i then y.getLsbD i else z.getLsbD i) ∧
    (maj x y z).getLsbD i =
      decide (2 ≤ (x.getLsbD i).toNat + (y.getLsbD i).toNat + (z.getLsbD i).toNat)) ∧
  (∀ x y z : Word, (x &&& y) &&& (~~~x &&& z) = 0#32 ∧ ch x y z = (x &&& y) ||| (~~~x &&& z) ∧
    maj x y z = maj y x z ∧ maj x y z = maj x z y) ∧
  (∀ f g : Word, ch 0x00000000#32 f g = g ∧ ch 0xFFFFFFFF#32 f g = f) ∧
  ch 0xFFFF0000#32 0x12345678#32 0x9ABCDEF0#32 = 0x1234DEF0#32 ∧
  ch 0x510E527F#32 0x9B05688C#32 0x1F83D9AB#32 = 0x1F85C98C#32 ∧
  maj 0#32 0#32 0xFFFFFFFF#32 = 0x00000000#32 ∧
  maj 0#32 0xFFFFFFFF#32 0xFFFFFFFF#32 = 0xFFFFFFFF#32 ∧
  maj 0xFFFF0000#32 0x12345678#32 0x9ABCDEF0#32 = 0x9ABC5670#32 ∧
  maj 0x6A09E667#32 0xBB67AE85#32 0x3C6EF372#32 = 0x3A6FE667#32

/-- K[i] (R104) is, in the reading the spec marks as from general knowledge (its G1), the first 32 bits of the fractional part of the cube root of the (i+1)-th prime:
floor(cuberoot(p_i · 2^96)) mod 2^32; and p_0 to p_63 are the primes up to 311, in order. -/
def Obligations.RoundConstantsAreCubeRootFractions : Prop :=
  firstPrimes.length = 64 ∧ firstPrimes.Pairwise (· < ·) ∧
  (∀ p : Nat, p ∈ firstPrimes ↔ p.Prime ∧ p ≤ 311) ∧
  ∀ i : Fin 64, ∃ r : Nat, r ^ 3 ≤ firstPrimes.getD i.val 0 * 2 ^ 96 ∧
    firstPrimes.getD i.val 0 * 2 ^ 96 < (r + 1) ^ 3 ∧ (kAt i).toNat = r % 2 ^ 32

/-- IV[i] (R110) is, in the reading the spec marks as from general knowledge (its G1), the first 32 bits
of the fractional part of the square root of the (i+1)-th prime:
floor(sqrt(p_i · 2^64)) mod 2^32; and its 32 bytes in the DIGEST window after INIT. -/
def Obligations.InitialValueIsSquareRootFractions : Prop :=
  (∀ i : Fin 8, ∃ r p : Nat, [2, 3, 5, 7, 11, 13, 17, 19][i.val]? = some p ∧
    r ^ 2 ≤ p * 2 ^ 64 ∧ p * 2 ^ 64 < (r + 1) ^ 2 ∧ iv[i.val].toNat = r % 2 ^ 32) ∧
  ∀ s : State, ∃ t, exec .init s = .next t ∧ (List.finRange 32).map t.readDigest =
    [0x6A#8, 0x09#8, 0xE6#8, 0x67#8, 0xBB#8, 0x67#8, 0xAE#8, 0x85#8, 0x3C#8, 0x6E#8, 0xF3#8, 0x72#8,
     0xA5#8, 0x4F#8, 0xF5#8, 0x3A#8, 0x51#8, 0x0E#8, 0x52#8, 0x7F#8, 0x9B#8, 0x05#8, 0x68#8, 0x8C#8,
     0x1F#8, 0x83#8, 0xD9#8, 0xAB#8, 0x5B#8, 0xE0#8, 0xCD#8, 0x19#8]

/-- R42: the digest of a chaining state is 32 bytes, four for each word in order, the first byte of a
word its most significant; byte j is the byte the DIGEST window gives at j. -/
def Obligations.DigestIsThirtyTwoBigEndianBytes : Prop :=
  ∀ h : Vector Word 8, (digestBytes h).length = 32 ∧
    (∀ j : Fin 32, (digestBytes h)[j.val]? = some (digestByte h j)) ∧
    ∀ i : Fin 8, ∃ b0 b1 b2 b3 : Byte,
      ((digestBytes h).drop (4 * i.val)).take 4 = [b0, b1, b2, b3] ∧
      h[i.val].toNat = b0.toNat * 2 ^ 24 + b1.toNat * 2 ^ 16 + b2.toNat * 2 ^ 8 + b3.toNat

/-! ## Invariants and whole-machine rules -/

/-- From every state with a legal sequencer word the machine takes a step, and the word stays legal
(R26, R69): no run from reset is ever stuck. -/
def Obligations.LegalSequencerAlwaysStepsAndStaysLegal : Prop :=
  ∀ s : State, s.SeqLegal → ∃ t, step s = .next t ∧ t.SeqLegal

/-- The sequencer word is legal at reset (R33). -/
def Obligations.SequencerIsLegalAtReset : Prop := State.reset.SeqLegal

/-- A reserved sequencer word: neither a host step nor an engine step is enabled (R69); only reset
leaves it. -/
def Obligations.ReservedSequencerWordIsStuck : Prop :=
  ∀ s : State, ¬s.SeqLegal →
    (s.rstPin = false → step s = .fault .stuckSequencer) ∧
    (s.rstPin = true → ∃ t, step s = .next t ∧ t.SeqLegal)

/-- The sequencer words reachable from reset, whatever the host does, are exactly the 116 listed
ones; any other is stuck; idle and busy by phase (R26; notes/assumptions/5.md). -/
def Obligations.ExactlyTheListedSequencerWordsAreReachable : Prop :=
  (∀ q : Seq,
    (∃ (l : List HostMove) (n : Nat) (s : State),
      run n { State.reset with stream := l } = .next s ∧ s.seq = q) ↔
    q = { phase := .idle, t := 0#6 } ∨ q = { phase := .load, t := 0#6 } ∨
    (q.phase = .expand ∧ 16 ≤ q.t.toNat) ∨ q = { phase := .initv, t := 0#6 } ∨
    q.phase = .round ∨ q = { phase := .addback, t := 0#6 }) ∧
  Set.ncard {q : Seq | q.legal = true} = 116 ∧
  (∀ s : State, s.rstPin = false → s.seq.legal = false → step s = .fault .stuckSequencer) ∧
  (∀ s : State, (s.busy = false ↔ s.seq.phase = .idle) ∧ (s.busy = true ↔ s.seq.phase ≠ .idle))

/-- R67: the step taken at each sequencer word and the next one, row by row, and the 115 engine steps
after an accepted RUN. -/
def Obligations.SequencerFollowsItsFixedWalk : Prop :=
  (∀ s t : State, s.SeqLegal → s.rstPin = false → step s = .next t →
    (s.seq = { phase := .idle, t := 0#6 } → s.accepted = some 0x30000000#32 →
      t.seq = { phase := .load, t := 0#6 }) ∧
    (s.seq = { phase := .idle, t := 0#6 } → s.accepted ≠ some 0x30000000#32 →
      t.seq = { phase := .idle, t := 0#6 }) ∧
    (s.seq = { phase := .load, t := 0#6 } → t.seq = { phase := .expand, t := 16#6 }) ∧
    (∀ k : BitVec 6, k.toNat ≤ 62 → s.seq = { phase := .expand, t := k } →
      t.seq = { phase := .expand, t := k + 1#6 }) ∧
    (s.seq = { phase := .expand, t := 63#6 } → t.seq = { phase := .initv, t := 0#6 }) ∧
    (s.seq = { phase := .initv, t := 0#6 } → t.seq = { phase := .round, t := 0#6 }) ∧
    (∀ k : BitVec 6, k.toNat ≤ 62 → s.seq = { phase := .round, t := k } →
      t.seq = { phase := .round, t := k + 1#6 }) ∧
    (s.seq = { phase := .round, t := 63#6 } → t.seq = { phase := .addback, t := 0#6 }) ∧
    (s.seq = { phase := .addback, t := 0#6 } → t.seq = { phase := .idle, t := 0#6 })) ∧
  (decodeSequencer (Seq.word { phase := .load, t := 0#6 }) = .instr .ldw ∧
    (∀ k : BitVec 6, 16 ≤ k.toNat →
      decodeSequencer (Seq.word { phase := .expand, t := k }) = .instr (.exp k)) ∧
    decodeSequencer (Seq.word { phase := .initv, t := 0#6 }) = .instr .ldv ∧
    (∀ k : BitVec 6, decodeSequencer (Seq.word { phase := .round, t := k }) = .instr (.rnd k)) ∧
    decodeSequencer (Seq.word { phase := .addback, t := 0#6 }) = .instr .add) ∧
  (∀ s : State, s.seq = { phase := .load, t := 0#6 } → noResetFor 115 s.stream = true →
    ∀ n ≤ 115, ∃ t, run n s = .next t ∧
      (t.seq = { phase := .idle, t := 0#6 } ↔ n = 115))

/-- A busy engine always takes a step and is idle after at most 115 of them, if no reset comes in
between (R169). The port's moves and the 115 steps are as the model holds them
(notes/assumptions/1.md, 7.md). -/
def Obligations.BusyEngineReachesIdle : Prop :=
  ∀ s : State, s.SeqLegal → s.busy = true → noResetFor 115 s.stream = true →
    (∃ t, step s = .next t) ∧
    ∃ n, 1 ≤ n ∧ n ≤ 115 ∧ ∃ t, run n s = .next t ∧
      t.seq = { phase := .idle, t := 0#6 } ∧ t.b = s.b ∧ t.err = s.err ∧
      t.responses = s.responses ∧ t.stream = heldFor n s.stream

/-- What a compression in flight has computed so far is right, and stays right with every step (R94,
R107): the schedule words are Schedule(B)'s, the working variables those of the rounds so far. -/
def Obligations.CompressionInFlightStaysCorrect : Prop :=
  ∀ s t : State, s.SeqLegal → s.CompressionCorrect → step s = .next t →
    t.SeqLegal ∧ t.CompressionCorrect

/-- The invariant of `CompressionInFlightStaysCorrect` holds at reset. -/
def Obligations.CompressionIsCorrectAtReset : Prop :=
  State.reset.SeqLegal ∧ State.reset.CompressionCorrect

/-- An accepted RUN, 115 engine steps later: idle, H = Compress(H, B), the same B and ERR, and no host
step in between (R112, R83). The port's moves and the 115 steps are as the model holds them
(notes/assumptions/1.md, 7.md). -/
def Obligations.RunComputesCompress : Prop :=
  ∀ s : State, s.seq = { phase := .idle, t := 0#6 } → s.accepted = some 0x30000000#32 →
    noResetFor 115 s.stream.tail = true →
    (∃ t, run 116 s = .next t ∧ t.seq = { phase := .idle, t := 0#6 } ∧
      t.h = compress s.h s.b ∧ t.b = s.b ∧ t.err = s.err ∧ t.responses = s.responses ∧
      t.stream = heldFor 115 s.stream.tail ∧ t.draws = s.draws) ∧
    (∀ n, 1 ≤ n → n ≤ 115 → ∃ u, run n s = .next u ∧ u.busy = true ∧
      u.accepted = none) ∧
    (∀ i : Fin 8, (compress s.h s.b)[i.val].toNat =
      (s.h[i.val].toNat + (rounds s.h (schedule s.b))[i.val].toNat) % 2 ^ 32)

/-- R94: after LDW and the 48 EXP steps W is Schedule(B), which satisfies the recurrence of the rule. -/
def Obligations.ScheduleSatisfiesItsRecurrence : Prop :=
  (∀ (b : Vector Byte 64) (i : Fin 16), (schedule b)[i.val].toNat =
    b[4 * i.val].toNat * 2 ^ 24 + b[4 * i.val + 1].toNat * 2 ^ 16 +
      b[4 * i.val + 2].toNat * 2 ^ 8 + b[4 * i.val + 3].toNat) ∧
  (∀ (b : Vector Byte 64) (i : Fin 64), 16 ≤ i.val → (schedule b)[i.val] =
    (schedule b)[i.val - 16] + ssig0 (schedule b)[i.val - 15] +
      (schedule b)[i.val - 7] + ssig1 (schedule b)[i.val - 2]) ∧
  (∀ s : State, s.seq = { phase := .load, t := 0#6 } → noResetFor 49 s.stream = true →
    ∃ t, run 49 s = .next t ∧ t.seq = { phase := .initv, t := 0#6 } ∧
      t.w = schedule s.b)

/-- R107: after LDV and the 64 RND steps x = Rounds(H, W): round by round from x = H. -/
def Obligations.RoundsRunInOrderFromH : Prop :=
  (∀ (h : Vector Word 8) (w : Vector Word 64), roundsUpTo h w 0 = h ∧
    (∀ k : Fin 64, roundsUpTo h w (k.val + 1) = roundVars (roundsUpTo h w k.val) (kAt k) w[k.val]) ∧
    rounds h w = roundsUpTo h w 64) ∧
  (∀ s : State, s.seq = { phase := .initv, t := 0#6 } → noResetFor 65 s.stream = true →
    ∃ t, run 65 s = .next t ∧ t.seq = { phase := .addback, t := 0#6 } ∧
      t.x = rounds s.h s.w ∧ t.h = s.h ∧ t.w = s.w)

/-- Which step can change which register: H only INIT and ADD (R20), x only LDV and RND (R21), W only
LDW and EXP (R22), B only WRB (R23), each besides reset. -/
def Obligations.EachRegisterHasOnlyItsWriters : Prop :=
  ∀ s t : State, s.SeqLegal → s.rstPin = false → step s = .next t →
    (t.h ≠ s.h → s.accepted = some 0x10000000#32 ∨ s.seq.phase = .addback) ∧
    (t.x ≠ s.x → s.seq.phase = .initv ∨ s.seq.phase = .round) ∧
    (t.w ≠ s.w → s.seq.phase = .load ∨ s.seq.phase = .expand) ∧
    (∀ j : Fin 64, t.readBlock j ≠ s.readBlock j →
      ∃ a d, s.accepted = some (encWrb a d) ∧ blockAddr a = j ∧ t.readBlock j = d) ∧
    t.draws = s.draws

/-- R27: BUSY is the phase; ERR is set by the acceptance of an illegal word and by nothing else, and
cleared by reset and by nothing else; no step depends on it. -/
def Obligations.ErrIsStickyAndNothingDependsOnIt : Prop :=
  (∀ s t : State, s.SeqLegal → step s = .next t →
    (t.err = true ↔ s.rstPin = false ∧
      (s.err = true ∨ ∃ c, s.accepted = some c ∧ decodeCommand c = .illegal c))) ∧
  (∀ (s t : State) (e : Bool), step s = .next t →
    ∃ e', step { s with err := e } = .next { t with err := e' }) ∧
  (∀ s : State, s.busy = true ↔ s.seq.phase ≠ .idle)

/-- R172: the sequence of micro-operations, and what a step does to the port, depend on the sequencer
word and the port alone, never on H, B, W or x. -/
def Obligations.SequencingIsIndependentOfData : Prop :=
  ∀ (s : State) (h x : Vector Word 8) (w : Vector Word 64) (b : Vector Byte 64),
    let s' := { s with h := h, x := x, w := w, b := b }
    s'.event = s.event ∧
    ∀ t, step s = .next t → ∃ t', step s' = .next t' ∧ t'.seq = t.seq ∧ t'.err = t.err ∧
      t'.stream = t.stream ∧ t'.draws = t.draws ∧ t'.responses.length = t.responses.length

/-- R22: the values W and x held before a RUN never reach H: two engines that differ only in them end
the RUN with the same H, B, ERR and responses. -/
def Obligations.OldScheduleNeverReachesH : Prop :=
  ∀ (s : State) (x : Vector Word 8) (w : Vector Word 64),
    s.seq = { phase := .idle, t := 0#6 } → s.accepted = some 0x30000000#32 →
    noResetFor 115 s.stream.tail = true →
    ∃ t t', run 116 s = .next t ∧
      run 116 { s with x := x, w := w } = .next t' ∧
      t' = { t with x := t'.x, w := t'.w }

/-- The engine keeps nothing but its own state between steps (R28): what it does, and what it returns, is
the same for two hosts that give the same levels on the pins in this step, whatever else they are to
send and whatever they have received; and the command RDD, which returns a byte, leaves the whole
engine as it was (R84). The reset's draw is the model's (notes/assumptions/3.md). -/
def Obligations.EngineKeepsNeitherCommandsNorResponses : Prop :=
  (∀ s s' t : State, s'.toEngine = s.toEngine → s'.draws = s.draws →
    s'.rstPin = s.rstPin → s'.cmdValidPin = s.cmdValidPin → s'.cmdPin = s.cmdPin →
    step s = .next t →
      s'.rspData = s.rspData ∧
      ∃ t', step s' = .next t' ∧ t'.toEngine = t.toEngine ∧ t'.draws = t.draws) ∧
  (∀ (a : BitVec 5) (s : State), ∃ t, exec (.rdd a) s = .next t ∧ t.toEngine = s.toEngine)

/-- How a host replaces what a message left behind (R166): 64 WRBs, a RUN and INIT make B the block
written, W its schedule, H the IV, and x the rounds from the H of before the RUN, which must itself
be no secret for x to be none. That W and x are the reference sequencer's is the model's choice
(notes/assumptions/7.md). -/
def Obligations.OverwritingReplacesTheDataState : Prop :=
  ∀ (s : State) (blk : Vector Byte 64) (rest : List HostMove),
    s.seq = { phase := .idle, t := 0#6 } →
    s.stream = presentAll (hashblk blk ++ [encInit]) ++ rest →
      ∃ t, run 181 s = .next t ∧ t.seq = { phase := .idle, t := 0#6 } ∧ t.stream = rest ∧
        t.b = blk ∧ t.w = schedule blk ∧ t.h = iv ∧ t.x = rounds s.h (schedule blk) ∧
        t.err = s.err ∧ t.responses = s.responses

/-- R32: `busy` is always the complement of `cmd_ready`; `err` is ERR; a byte is returned exactly in the
step in which an RDD is accepted, and it is the byte RDD returns. -/
def Obligations.OutputsAreFunctionsOfTheState : Prop :=
  (∀ s : State, (s.cmdReady = true ↔ s.seq.phase = .idle) ∧ s.busy = !s.cmdReady ∧
    s.errPin = s.err) ∧
  (∀ (s : State) (v : Byte), s.SeqLegal → (s.rspData = some v ↔
    ∃ a, s.accepted = some (encRdd a) ∧ v = s.readDigest (digestAddr a))) ∧
  (∀ s t : State, s.SeqLegal → step s = .next t →
    t.responses = s.responses ++ s.rspData.toList)

/-- What a command sequence can rely on (R51): a WRB or INIT accepted before a RUN is seen by it, a WRB
accepted after it is not, and an RDD accepted after a RUN sees its result. -/
def Obligations.CommandsTakeEffectInOrderAroundRun : Prop :=
  ∀ (s : State) (a : BitVec 6) (d : Byte) (j : BitVec 5) (rest : List HostMove),
    s.seq = { phase := .idle, t := 0#6 } →
    (s.stream = presentAll [encWrb a d, encRun, encRdd j] ++ rest →
      ∃ t, run 118 s = .next t ∧ t.stream = rest ∧
        t.responses = s.responses ++
          [digestByte (compress s.h (s.b.set (blockAddr a).val d)) (digestAddr j)]) ∧
    (s.stream = presentAll [encRun, encWrb a d, encRdd j] ++ rest →
      ∃ t, run 118 s = .next t ∧ t.stream = rest ∧
        t.responses = s.responses ++ [digestByte (compress s.h s.b) (digestAddr j)] ∧
        t.b = s.b.set (blockAddr a).val d) ∧
    (s.stream = presentAll [encInit, encRun, encRdd j] ++ rest →
      ∃ t, run 118 s = .next t ∧ t.stream = rest ∧
        t.responses = s.responses ++ [digestByte (compress iv s.b) (digestAddr j)])

/-! ## The host's procedures -/

/-- The hash procedure of R124 on any idle engine, whatever it held before: 1 + 65N + 32 commands and
115N engine steps later the 32 bytes returned are the digest of the message (R113, R114), the
engine is idle, and ERR is as it was. The list of returned bytes, the 115 steps and the host's
procedure as a function are the model's (notes/assumptions/2.md, 7.md, 17.md). -/
def Obligations.HashProcedureReturnsTheDigest : Prop :=
  ∀ (s : State) (m : List Byte) (p : List Word), s.seq = { phase := .idle, t := 0#6 } →
    hashProgram m = .ok p → s.stream = presentAll p →
      p.length = 1 + 65 * blockCount m.length + 32 ∧
      ∃ t, run (p.length + 115 * blockCount m.length) s = .next t ∧ t.RunOver ∧
        t.err = s.err ∧ t.responses = s.responses ++ sha256Bytes m

/-- R121, R122, R123: the padded message, its length, the smallest K, and its blocks in order. -/
def Obligations.PaddingFillsWholeBlocks : Prop :=
  ∀ m : List Byte, ∃ z K : Nat,
    (z : Int) = (55 - (m.length : Int)) % 64 ∧ K = 8 * (z + 1) ∧
    pad m = m ++ [0x80#8] ++ List.replicate z 0x00#8 ++ be64 (BitVec.ofNat 64 (8 * m.length)) ∧
    (∀ v : BitVec 64, ∃ b0 b1 b2 b3 b4 b5 b6 b7 : Byte,
      be64 v = [b0, b1, b2, b3, b4, b5, b6, b7] ∧
      v.toNat = b0.toNat * 2 ^ 56 + b1.toNat * 2 ^ 48 + b2.toNat * 2 ^ 40 + b3.toNat * 2 ^ 32 +
        b4.toNat * 2 ^ 24 + b5.toNat * 2 ^ 16 + b6.toNat * 2 ^ 8 + b7.toNat) ∧
    1 ≤ K ∧ K ≤ 512 ∧ (8 * m.length + K + 64) % 512 = 0 ∧
    (∀ k, 1 ≤ k → (8 * m.length + k + 64) % 512 = 0 → K ≤ k) ∧
    (pad m).length = m.length + 1 + z + 8 ∧ (pad m).length = 64 * blockCount m.length ∧
    blockCount m.length = (m.length + 8) / 64 + 1 ∧
    (split (pad m)).length = blockCount m.length ∧
    ((split (pad m)).map Vector.toList).flatten = pad m

/-- R125: the host refuses a message of 2^61 bytes or more and issues no command for it; every shorter
one is hashed. -/
def Obligations.HostRefusesMessagesItCannotMeasure : Prop :=
  ∀ m : List Byte,
    (2 ^ 61 ≤ m.length → hashProgram m = .error .messageTooLong ∧ sha256 m = .error .messageTooLong) ∧
    (m.length < 2 ^ 61 → hashProgram m = .ok (hashCommands m) ∧ sha256 m = .ok (sha256Bytes m) ∧
      8 * m.length < 2 ^ 64)

/-- R131: HMAC's key normalisation to 64 bytes. -/
def Obligations.HmacKeyIsNormalisedToSixtyFourBytes : Prop :=
  (∀ key k : List Byte, hmacKey key = .ok k → k.length = 64) ∧
  (∀ key : List Byte, key.length < 64 →
    hmacKey key = .ok (key ++ List.replicate (64 - key.length) 0x00#8)) ∧
  (∀ key : List Byte, key.length = 64 → hmacKey key = .ok key) ∧
  (∀ key d : List Byte, 64 < key.length → sha256 key = .ok d →
    d.length = 32 ∧ hmacKey key = .ok (d ++ List.replicate 32 0x00#8))

/-- HKDF's output has exactly `length` bytes and is a prefix of the output for `length + 32` (R136 (a)),
a call for more than 8160 bytes is rejected (R135), and an empty salt and one of 32 zero bytes give
the same result (R133). -/
def Obligations.HkdfOutputHasItsLengthAndIsAPrefix : Prop :=
  (∀ (n : Nat) (ikm salt info okm : List Byte), hkdfDerive n ikm salt info = .ok okm →
    okm.length = n ∧
    ∀ okm', hkdfDerive (n + 32) ikm salt info = .ok okm' → okm <+: okm') ∧
  (∀ (n : Nat) (ikm salt info : List Byte), 8160 < n →
    hkdfDerive n ikm salt info = .error .usageError) ∧
  (∀ ikm : List Byte, hkdfExtract ikm [] = hkdfExtract ikm (List.replicate 32 0x00#8))
end

