-- ==== Sys2Proof/Laws/State.lean ====
section
/-! SUPPORT. One lemma per field and per operation of Machine/Ops.lean: what the field is after it.
No later proof unfolds a record update. -/

namespace Sys2Proof.Machine

variable (s : State)

/-! ## setSeq -/

@[simp] theorem State.setSeq_seq (q : Seq) : (s.setSeq q).seq = q := rfl
@[simp] theorem State.setSeq_err (q : Seq) : (s.setSeq q).err = s.err := rfl
@[simp] theorem State.setSeq_h (q : Seq) : (s.setSeq q).h = s.h := rfl
@[simp] theorem State.setSeq_x (q : Seq) : (s.setSeq q).x = s.x := rfl
@[simp] theorem State.setSeq_w (q : Seq) : (s.setSeq q).w = s.w := rfl
@[simp] theorem State.setSeq_b (q : Seq) : (s.setSeq q).b = s.b := rfl
@[simp] theorem State.setSeq_stream (q : Seq) : (s.setSeq q).stream = s.stream := rfl
@[simp] theorem State.setSeq_responses (q : Seq) : (s.setSeq q).responses = s.responses := rfl
@[simp] theorem State.setSeq_draws (q : Seq) : (s.setSeq q).draws = s.draws := rfl

/-! ## setH -/

@[simp] theorem State.setH_seq (v : Vector Word 8) : (s.setH v).seq = s.seq := rfl
@[simp] theorem State.setH_err (v : Vector Word 8) : (s.setH v).err = s.err := rfl
@[simp] theorem State.setH_h (v : Vector Word 8) : (s.setH v).h = v := rfl
@[simp] theorem State.setH_x (v : Vector Word 8) : (s.setH v).x = s.x := rfl
@[simp] theorem State.setH_w (v : Vector Word 8) : (s.setH v).w = s.w := rfl
@[simp] theorem State.setH_b (v : Vector Word 8) : (s.setH v).b = s.b := rfl
@[simp] theorem State.setH_stream (v : Vector Word 8) : (s.setH v).stream = s.stream := rfl
@[simp] theorem State.setH_responses (v : Vector Word 8) : (s.setH v).responses = s.responses := rfl
@[simp] theorem State.setH_draws (v : Vector Word 8) : (s.setH v).draws = s.draws := rfl

/-! ## setX -/

@[simp] theorem State.setX_seq (v : Vector Word 8) : (s.setX v).seq = s.seq := rfl
@[simp] theorem State.setX_err (v : Vector Word 8) : (s.setX v).err = s.err := rfl
@[simp] theorem State.setX_h (v : Vector Word 8) : (s.setX v).h = s.h := rfl
@[simp] theorem State.setX_x (v : Vector Word 8) : (s.setX v).x = v := rfl
@[simp] theorem State.setX_w (v : Vector Word 8) : (s.setX v).w = s.w := rfl
@[simp] theorem State.setX_b (v : Vector Word 8) : (s.setX v).b = s.b := rfl
@[simp] theorem State.setX_stream (v : Vector Word 8) : (s.setX v).stream = s.stream := rfl
@[simp] theorem State.setX_responses (v : Vector Word 8) : (s.setX v).responses = s.responses := rfl
@[simp] theorem State.setX_draws (v : Vector Word 8) : (s.setX v).draws = s.draws := rfl

/-! ## setW -/

@[simp] theorem State.setW_seq (i : Fin 64) (v : Word) : (s.setW i v).seq = s.seq := rfl
@[simp] theorem State.setW_err (i : Fin 64) (v : Word) : (s.setW i v).err = s.err := rfl
@[simp] theorem State.setW_h (i : Fin 64) (v : Word) : (s.setW i v).h = s.h := rfl
@[simp] theorem State.setW_x (i : Fin 64) (v : Word) : (s.setW i v).x = s.x := rfl
@[simp] theorem State.setW_w (i : Fin 64) (v : Word) : (s.setW i v).w = s.w.set i.val v i.isLt := rfl
@[simp] theorem State.setW_b (i : Fin 64) (v : Word) : (s.setW i v).b = s.b := rfl
@[simp] theorem State.setW_stream (i : Fin 64) (v : Word) : (s.setW i v).stream = s.stream := rfl
@[simp] theorem State.setW_responses (i : Fin 64) (v : Word) : (s.setW i v).responses = s.responses := rfl
@[simp] theorem State.setW_draws (i : Fin 64) (v : Word) : (s.setW i v).draws = s.draws := rfl

/-! ## loadSchedule -/

@[simp] theorem State.loadSchedule_seq : s.loadSchedule.seq = s.seq := by simp only [State.loadSchedule]
@[simp] theorem State.loadSchedule_err : s.loadSchedule.err = s.err := by simp only [State.loadSchedule]
@[simp] theorem State.loadSchedule_h : s.loadSchedule.h = s.h := by simp only [State.loadSchedule]
@[simp] theorem State.loadSchedule_x : s.loadSchedule.x = s.x := by simp only [State.loadSchedule]
@[simp] theorem State.loadSchedule_w : s.loadSchedule.w = loadWords s.b s.w := rfl
@[simp] theorem State.loadSchedule_b : s.loadSchedule.b = s.b := by simp only [State.loadSchedule]
@[simp] theorem State.loadSchedule_stream : s.loadSchedule.stream = s.stream := by simp only [State.loadSchedule]
@[simp] theorem State.loadSchedule_responses : s.loadSchedule.responses = s.responses := by simp only [State.loadSchedule]
@[simp] theorem State.loadSchedule_draws : s.loadSchedule.draws = s.draws := by simp only [State.loadSchedule]

/-! ## writeBlock -/

@[simp] theorem State.writeBlock_seq (j : Fin 64) (v : Byte) : (s.writeBlock j v).seq = s.seq := rfl
@[simp] theorem State.writeBlock_err (j : Fin 64) (v : Byte) : (s.writeBlock j v).err = s.err := rfl
@[simp] theorem State.writeBlock_h (j : Fin 64) (v : Byte) : (s.writeBlock j v).h = s.h := rfl
@[simp] theorem State.writeBlock_x (j : Fin 64) (v : Byte) : (s.writeBlock j v).x = s.x := rfl
@[simp] theorem State.writeBlock_w (j : Fin 64) (v : Byte) : (s.writeBlock j v).w = s.w := rfl
@[simp] theorem State.writeBlock_b (j : Fin 64) (v : Byte) : (s.writeBlock j v).b = s.b.set j.val v j.isLt := rfl
@[simp] theorem State.writeBlock_stream (j : Fin 64) (v : Byte) : (s.writeBlock j v).stream = s.stream := rfl
@[simp] theorem State.writeBlock_responses (j : Fin 64) (v : Byte) : (s.writeBlock j v).responses = s.responses := rfl
@[simp] theorem State.writeBlock_draws (j : Fin 64) (v : Byte) : (s.writeBlock j v).draws = s.draws := rfl

/-! ## respond -/

@[simp] theorem State.respond_seq (v : Byte) : (s.respond v).seq = s.seq := rfl
@[simp] theorem State.respond_err (v : Byte) : (s.respond v).err = s.err := rfl
@[simp] theorem State.respond_h (v : Byte) : (s.respond v).h = s.h := rfl
@[simp] theorem State.respond_x (v : Byte) : (s.respond v).x = s.x := rfl
@[simp] theorem State.respond_w (v : Byte) : (s.respond v).w = s.w := rfl
@[simp] theorem State.respond_b (v : Byte) : (s.respond v).b = s.b := rfl
@[simp] theorem State.respond_stream (v : Byte) : (s.respond v).stream = s.stream := rfl
@[simp] theorem State.respond_responses (v : Byte) : (s.respond v).responses = s.responses ++ [v] := rfl
@[simp] theorem State.respond_draws (v : Byte) : (s.respond v).draws = s.draws := rfl

/-! ## held -/

@[simp] theorem State.held_seq : s.held.seq = s.seq := rfl
@[simp] theorem State.held_err : s.held.err = s.err := rfl
@[simp] theorem State.held_h : s.held.h = s.h := rfl
@[simp] theorem State.held_x : s.held.x = s.x := rfl
@[simp] theorem State.held_w : s.held.w = s.w := rfl
@[simp] theorem State.held_b : s.held.b = s.b := rfl
@[simp] theorem State.held_stream : s.held.stream = heldStream s.stream := rfl
@[simp] theorem State.held_responses : s.held.responses = s.responses := rfl
@[simp] theorem State.held_draws : s.held.draws = s.draws := rfl

/-! ## consumed -/

@[simp] theorem State.consumed_seq : s.consumed.seq = s.seq := rfl
@[simp] theorem State.consumed_err : s.consumed.err = s.err := rfl
@[simp] theorem State.consumed_h : s.consumed.h = s.h := rfl
@[simp] theorem State.consumed_x : s.consumed.x = s.x := rfl
@[simp] theorem State.consumed_w : s.consumed.w = s.w := rfl
@[simp] theorem State.consumed_b : s.consumed.b = s.b := rfl
@[simp] theorem State.consumed_stream : s.consumed.stream = s.stream.tail := rfl
@[simp] theorem State.consumed_responses : s.consumed.responses = s.responses := rfl
@[simp] theorem State.consumed_draws : s.consumed.draws = s.draws := rfl

/-! ## raiseIllegalCommand -/

@[simp] theorem State.raiseIllegalCommand_seq (c : Word) : (s.raiseIllegalCommand c).seq = s.seq := rfl
@[simp] theorem State.raiseIllegalCommand_err (c : Word) : (s.raiseIllegalCommand c).err = true := rfl
@[simp] theorem State.raiseIllegalCommand_h (c : Word) : (s.raiseIllegalCommand c).h = s.h := rfl
@[simp] theorem State.raiseIllegalCommand_x (c : Word) : (s.raiseIllegalCommand c).x = s.x := rfl
@[simp] theorem State.raiseIllegalCommand_w (c : Word) : (s.raiseIllegalCommand c).w = s.w := rfl
@[simp] theorem State.raiseIllegalCommand_b (c : Word) : (s.raiseIllegalCommand c).b = s.b := rfl
@[simp] theorem State.raiseIllegalCommand_stream (c : Word) : (s.raiseIllegalCommand c).stream = s.stream := rfl
@[simp] theorem State.raiseIllegalCommand_responses (c : Word) : (s.raiseIllegalCommand c).responses = s.responses := rfl
@[simp] theorem State.raiseIllegalCommand_draws (c : Word) : (s.raiseIllegalCommand c).draws = s.draws := rfl

/-! ## takeReset -/

@[simp] theorem State.takeReset_seq : s.takeReset.seq = Seq.idle := rfl
@[simp] theorem State.takeReset_err : s.takeReset.err = false := rfl
@[simp] theorem State.takeReset_h : s.takeReset.h = s.resetData.h := rfl
@[simp] theorem State.takeReset_x : s.takeReset.x = s.resetData.x := rfl
@[simp] theorem State.takeReset_w : s.takeReset.w = s.resetData.w := rfl
@[simp] theorem State.takeReset_b : s.takeReset.b = s.resetData.b := rfl
@[simp] theorem State.takeReset_stream : s.takeReset.stream = s.stream := rfl
@[simp] theorem State.takeReset_responses : s.takeReset.responses = s.responses := rfl
@[simp] theorem State.takeReset_draws : s.takeReset.draws = s.draws + 1 := rfl

/-! ## The engine as a whole (10_state.md R28): what only the host's side sees -/

@[simp] theorem State.respond_toEngine (v : Byte) : (s.respond v).toEngine = s.toEngine := rfl
@[simp] theorem State.held_toEngine : s.held.toEngine = s.toEngine := rfl
@[simp] theorem State.consumed_toEngine : s.consumed.toEngine = s.toEngine := rfl
@[simp] theorem State.takeReset_toDataState : s.takeReset.toDataState = s.resetData := rfl

end Sys2Proof.Machine
end

