-- ==== Sys2Proof/Laws/Ops.lean ====
section
/-! SUPPORT. One lemma per shared operation: what it reads and writes, and nothing else. -/

namespace Sys2Proof.Machine

/-! ## The BLOCK space (R40) -/

/-- A byte just written reads back. -/
@[simp] theorem readBlock_writeBlock_same (s : State) (j : Fin 64) (v : Byte) :
    (s.writeBlock j v).readBlock j = v := by
  simp [State.readBlock]

/-- A write leaves every other byte alone. -/
theorem readBlock_writeBlock_other (s : State) (j k : Fin 64) (v : Byte) (h : k ≠ j) :
    (s.writeBlock j v).readBlock k = s.readBlock k := by
  have : j.val ≠ k.val := fun e => h (Fin.ext e.symm)
  simp [State.readBlock, this]

/-- The list form of the BLOCK space is canonical in every state. -/
theorem blockCells_wf (s : State) : Memory.wf s.blockCells = true := by
  have : s.blockCells.map Prod.fst = List.range 64 := by
    rw [State.blockCells, List.map_map, ← List.map_coe_finRange_eq_range]
    rfl
  simp [Memory.wf, this]

/-- A write keeps the canonical form. -/
theorem blockCells_writeBlock_wf (s : State) (j : Fin 64) (v : Byte) :
    Memory.wf (s.writeBlock j v).blockCells = true := blockCells_wf _

/-- The canonical form holds at reset. -/
theorem blockCells_reset_wf : Memory.wf State.reset.blockCells = true := blockCells_wf _

/-- Equal block buffers are equal lists of cells. -/
theorem blockCells_inj (s t : State) (h : s.blockCells = t.blockCells) : s.b = t.b := by
  apply Vector.ext
  intro i hi
  have := congrArg (fun l => l[i]?) h
  simpa [State.blockCells, State.readBlock, hi] using this

/-! ## Registers -/

/-- `H[i] + x[i]`, word by word: no carry passes from one to the next (R111). -/
@[simp] theorem addWords_get (h x : Vector Word 8) (i : Nat) (hi : i < 8) :
    (addWords h x)[i] = h[i] + x[i] := by
  simp [addWords]

/-- LDW's words 0 to 15 (R92). -/
theorem loadWords_low (b : Vector Byte 64) (w : Vector Word 64) (i : Nat) (hi : i < 16) :
    (loadWords b w)[i] = blockWord b ⟨i, hi⟩ := by
  simp [loadWords, hi]

/-- LDW keeps words 16 to 63 (R92). -/
theorem loadWords_high (b : Vector Byte 64) (w : Vector Word 64) (i : Nat) (h16 : 16 ≤ i)
    (hi : i < 64) : (loadWords b w)[i] = w[i] := by
  simp [loadWords, Nat.not_lt.mpr h16]

/-- EXP's word depends only on the words before it (R95). -/
theorem expandWord_congr (w w' : Vector Word 64) (t : Fin 64) (ht : 16 ≤ t.val)
    (h : ∀ (i : Nat) (_ : i < t.val) (hi : i < 64), w[i] = w'[i]) :
    expandWord w t = expandWord w' t := by
  have := t.isLt
  simp only [expandWord]
  rw [h (t.val - 16) (by omega), h (t.val - 15) (by omega), h (t.val - 7) (by omega),
    h (t.val - 2) (by omega)]

/-! ## The port (R86) -/

@[simp] theorem heldStream_nil : heldStream [] = [] := rfl
@[simp] theorem heldStream_present (c : Word) (l : List HostMove) :
    heldStream (.present c :: l) = .present c :: l := rfl
@[simp] theorem heldStream_pins (r v : Bool) (c : Word) (l : List HostMove) :
    heldStream (.pins r v c :: l) = l := rfl

theorem rstPin_nil (s : State) (h : s.stream = []) : s.rstPin = false := by
  simp [State.rstPin, h]

theorem rstPin_present (s : State) (c : Word) (l : List HostMove)
    (h : s.stream = .present c :: l) : s.rstPin = false := by
  simp [State.rstPin, h]

theorem rstPin_pins (s : State) (r v : Bool) (c : Word) (l : List HostMove)
    (h : s.stream = .pins r v c :: l) : s.rstPin = r := by
  simp [State.rstPin, h]

/-- A command is accepted exactly when `cmd_valid = 1`, `cmd_ready = 1` and `rst = 0` (R86). -/
theorem accepted_eq_some (s : State) (c : Word) :
    s.accepted = some c ↔
      s.cmdValidPin = true ∧ s.cmdReady = true ∧ s.rstPin = false ∧ s.cmdPin = c := by
  simp only [State.accepted]
  split <;> simp_all

/-- `busy` is always the complement of `cmd_ready` (R32). -/
theorem busy_eq_not_cmdReady (s : State) : s.busy = !s.cmdReady := by
  simp [State.busy, State.cmdReady]

end Sys2Proof.Machine
end

