-- ==== Sys2Proof/Laws/Compress.lean ====
section
/-! SUPPORT. One lemma per recursive function of Machine/Compress.lean, to be used in place of its
equations: simp with the definitions themselves unfolds all 48 or 64 steps of a literal count. -/

namespace Sys2Proof.Machine

/-- Schedule word 16 + n from the words before it. -/
theorem scheduleUpTo_succ (b : Vector Byte 64) (n : Nat) (h : 16 + n < 64) :
    scheduleUpTo b (n + 1) =
      (scheduleUpTo b n).set (16 + n) (expandWord (scheduleUpTo b n) ⟨16 + n, h⟩) h := by
  rw [scheduleUpTo]
  simp [h]

/-- A word of the schedule, once written, is kept. -/
theorem scheduleUpTo_stable (b : Vector Byte 64) (m n i : Nat) (hmn : m ≤ n) (hi : i < 64)
    (h : i < 16 + m) : (scheduleUpTo b n)[i] = (scheduleUpTo b m)[i] := by
  induction n with
  | zero =>
    obtain rfl : m = 0 := by omega
    rfl
  | succ n ih =>
    rcases Nat.lt_or_ge n m with h' | h'
    · obtain rfl : m = n + 1 := by omega
      rfl
    · rw [← ih h']
      rw [scheduleUpTo]
      split
      · rw [Vector.getElem_set_ne]
        omega
      · rfl

/-- Round n, from the variables after the rounds before it. -/
theorem roundsUpTo_succ (h : Vector Word 8) (w : Vector Word 64) (n : Nat) (hn : n < 64) :
    roundsUpTo h w (n + 1) = roundVars (roundsUpTo h w n) (kAt ⟨n, hn⟩) w[n] := by
  rw [roundsUpTo]
  simp [hn]

end Sys2Proof.Machine
end

