-- ==== Sys2Proof/Laws/Decode.lean ====
section
/-! SUPPORT. The rows of R62 read as arithmetic on the word's value, the operand fields likewise, and
the values of R73's encoders: with these, facts about format C are linear arithmetic. Format U has
512 words, so its facts are decided word by word. -/

namespace Sys2Proof

/-- A row whose mask keeps every bit holds of one word only. -/
theorem Row.holds_full (r c : Word) :
    Row.holds { pattern := r, mask := 0xFFFFFFFF#32 } c = true ↔ c = r := by
  simp only [Row.holds, beq_iff_eq]
  rw [show (0xFFFFFFFF#32 : Word) = BitVec.allOnes 32 from rfl, BitVec.and_allOnes]

theorem Row.nop_holds (c : Word) : Row.nop.holds c = true ↔ c.toNat = 0 :=
  (Row.holds_full _ c).trans BitVec.toNat_inj.symm

theorem Row.init_holds (c : Word) : Row.init.holds c = true ↔ c.toNat = 0x10000000 :=
  (Row.holds_full _ c).trans BitVec.toNat_inj.symm

theorem Row.run_holds (c : Word) : Row.run.holds c = true ↔ c.toNat = 0x30000000 :=
  (Row.holds_full _ c).trans BitVec.toNat_inj.symm

/-- WRB's row: the upper 18 bits are `0010 000000000000 00`. -/
theorem Row.wrb_holds (c : Word) : Row.wrb.holds c = true ↔ c.toNat / 2 ^ 14 = 0x8000 := by
  have key : Row.wrb.holds c = true ↔ c.extractLsb' 14 18 = 0x8000#18 := by
    simp only [Row.holds, Row.wrb, beq_iff_eq]
    constructor
    · intro h
      apply BitVec.eq_of_getLsbD_eq
      intro i hi
      have := congrArg (fun v => v.getLsbD (14 + i)) h
      interval_cases i <;> simpa using this
    · intro h
      apply BitVec.eq_of_getLsbD_eq
      intro i hi
      have := congrArg (fun v => v.getLsbD (i - 14)) h
      clear h
      interval_cases i <;> simp at this ⊢ <;> exact this
  rw [key, ← BitVec.toNat_inj, BitVec.extractLsb'_toNat, Nat.shiftRight_eq_div_pow]
  have := c.isLt
  simp
  omega

/-- RDD's row: the upper 19 bits are `0100 000000000000 000`, the lower 8 are zero. -/
theorem Row.rdd_holds (c : Word) :
    Row.rdd.holds c = true ↔ c.toNat / 2 ^ 13 = 0x20000 ∧ c.toNat % 2 ^ 8 = 0 := by
  have key : Row.rdd.holds c = true ↔
      c.extractLsb' 13 19 = 0x20000#19 ∧ c.extractLsb' 0 8 = 0#8 := by
    simp only [Row.holds, Row.rdd, beq_iff_eq]
    constructor
    · intro h
      constructor
      · apply BitVec.eq_of_getLsbD_eq
        intro i hi
        have := congrArg (fun v => v.getLsbD (13 + i)) h
        interval_cases i <;> simpa using this
      · apply BitVec.eq_of_getLsbD_eq
        intro i hi
        have := congrArg (fun v => v.getLsbD i) h
        interval_cases i <;> simpa using this
    · intro h
      apply BitVec.eq_of_getLsbD_eq
      intro i hi
      have h1 := congrArg (fun v => v.getLsbD (i - 13)) h.1
      have h2 := congrArg (fun v => v.getLsbD i) h.2
      clear h
      interval_cases i <;> simp at h1 h2 ⊢ <;> first | exact h1 | exact h2
  rw [key, ← BitVec.toNat_inj, ← BitVec.toNat_inj, BitVec.extractLsb'_toNat,
    BitVec.extractLsb'_toNat, Nat.shiftRight_eq_div_pow]
  have := c.isLt
  simp
  omega

@[simp] theorem wrbAddrField_toNat (c : Word) :
    (wrbAddrField c).toNat = c.toNat / 2 ^ 8 % 2 ^ 6 := by
  simp [wrbAddrField, BitVec.extractLsb'_toNat, Nat.shiftRight_eq_div_pow]

@[simp] theorem rddAddrField_toNat (c : Word) :
    (rddAddrField c).toNat = c.toNat / 2 ^ 8 % 2 ^ 5 := by
  simp [rddAddrField, BitVec.extractLsb'_toNat, Nat.shiftRight_eq_div_pow]

@[simp] theorem dataField_toNat (c : Word) : (dataField c).toNat = c.toNat % 2 ^ 8 := by
  simp [dataField, BitVec.extractLsb'_toNat]

@[simp] theorem encWrb_toNat (a : BitVec 6) (d : Byte) :
    (encWrb a d).toNat = 0x20000000 + 256 * a.toNat + d.toNat := by
  have ha := a.isLt
  have hd := d.isLt
  simp only [encWrb, BitVec.toNat_add, BitVec.toNat_mul, BitVec.toNat_setWidth, BitVec.toNat_ofNat]
  omega

@[simp] theorem encRdd_toNat (a : BitVec 5) :
    (encRdd a).toNat = 0x40000000 + 256 * a.toNat := by
  have ha := a.isLt
  simp only [encRdd, BitVec.toNat_add, BitVec.toNat_mul, BitVec.toNat_setWidth, BitVec.toNat_ofNat]
  omega

/-- Every answer of the format C decoder, with the condition under which it is given. -/
theorem decodeCommand_cases (c : Word) :
    (decodeCommand c = .instr .nop ∧ c.toNat = 0) ∨
    (decodeCommand c = .instr .init ∧ c.toNat = 0x10000000) ∨
    (decodeCommand c = .instr (.wrb (wrbAddrField c) (dataField c)) ∧ c.toNat / 2 ^ 14 = 0x8000) ∨
    (decodeCommand c = .instr .run ∧ c.toNat = 0x30000000) ∨
    (decodeCommand c = .instr (.rdd (rddAddrField c)) ∧
      c.toNat / 2 ^ 13 = 0x20000 ∧ c.toNat % 2 ^ 8 = 0) ∨
    (decodeCommand c = .illegal c ∧ c.toNat ≠ 0 ∧ c.toNat ≠ 0x10000000 ∧
      c.toNat / 2 ^ 14 ≠ 0x8000 ∧ c.toNat ≠ 0x30000000 ∧
      ¬(c.toNat / 2 ^ 13 = 0x20000 ∧ c.toNat % 2 ^ 8 = 0)) := by
  unfold decodeCommand
  rcases Bool.eq_false_or_eq_true (Row.nop.holds c) with h1 | h1
  · exact .inl ⟨by simp [h1], (Row.nop_holds c).1 h1⟩
  rcases Bool.eq_false_or_eq_true (Row.init.holds c) with h2 | h2
  · exact .inr (.inl ⟨by simp [h1, h2], (Row.init_holds c).1 h2⟩)
  rcases Bool.eq_false_or_eq_true (Row.wrb.holds c) with h3 | h3
  · exact .inr (.inr (.inl ⟨by simp [h1, h2, h3], (Row.wrb_holds c).1 h3⟩))
  rcases Bool.eq_false_or_eq_true (Row.run.holds c) with h4 | h4
  · exact .inr (.inr (.inr (.inl ⟨by simp [h1, h2, h3, h4], (Row.run_holds c).1 h4⟩)))
  rcases Bool.eq_false_or_eq_true (Row.rdd.holds c) with h5 | h5
  · exact .inr (.inr (.inr (.inr (.inl ⟨by simp [h1, h2, h3, h4, h5], (Row.rdd_holds c).1 h5⟩))))
  refine .inr (.inr (.inr (.inr (.inr ⟨by simp [h1, h2, h3, h4, h5], ?_, ?_, ?_, ?_, ?_⟩))))
  · rw [Ne, ← Row.nop_holds, h1]; decide
  · rw [Ne, ← Row.init_holds, h2]; decide
  · rw [Ne, ← Row.wrb_holds, h3]; decide
  · rw [Ne, ← Row.run_holds, h4]; decide
  · rw [← Row.rdd_holds, h5]; decide

/-- The format C decoder answers a command or ILLEGAL, never a format U answer. -/
theorem decodeCommand_total (c : Word) :
    (∃ i, decodeCommand c = .instr i ∧ i.agent = .host) ∨ decodeCommand c = .illegal c := by
  rcases decodeCommand_cases c with h | h | h | h | h | h
  · exact .inl ⟨_, h.1, rfl⟩
  · exact .inl ⟨_, h.1, rfl⟩
  · exact .inl ⟨_, h.1, rfl⟩
  · exact .inl ⟨_, h.1, rfl⟩
  · exact .inl ⟨_, h.1, rfl⟩
  · exact .inr h.1

end Sys2Proof
end

