-- ==== Sys2Proof/Laws/PerInstr.lean ====
section
/-! SUPPORT. RowMatch, a law per instruction: the word the encoder writes matches the instruction's own
row of the opcode table (30_encoding.md R62, R66). -/

namespace Sys2Proof.Laws.RowMatch

/-- Whether a word of either format matches the opcode-table row of `i`. -/
def inRow : Instr → CodeWord → Bool
  | .nop, .command c => Row.nop.holds c
  | .init, .command c => Row.init.holds c
  | .wrb _ _, .command c => Row.wrb.holds c
  | .run, .command c => Row.run.holds c
  | .rdd _, .command c => Row.rdd.holds c
  | .ldw, .sequencer q => Row.ldw.holds q
  | .exp _, .sequencer q => Row.exp.holds q
  | .ldv, .sequencer q => Row.ldv.holds q
  | .rnd _, .sequencer q => Row.rnd.holds q
  | .add, .sequencer q => Row.add.holds q
  | _, _ => false

def Statement (i : Instr) : Prop := inRow i (encode i) = true

theorem nop : Statement .nop := by simp only [Statement]; decide

theorem init : Statement .init := by simp only [Statement]; decide

theorem wrb (a : BitVec 6) (d : BitVec 8) : Statement (.wrb a d) := by
  have ha := a.isLt
  have hd := d.isLt
  show Row.wrb.holds (encWrb a d) = true
  rw [Row.wrb_holds, encWrb_toNat]
  omega

theorem run : Statement .run := by simp only [Statement]; decide

theorem rdd (a : BitVec 5) : Statement (.rdd a) := by
  have ha := a.isLt
  show Row.rdd.holds (encRdd a) = true
  rw [Row.rdd_holds, encRdd_toNat]
  omega

theorem ldw : Statement .ldw := by simp only [Statement]; decide

theorem exp (t : BitVec 6) : Statement (.exp t) := by
  show Row.exp.holds (0b010#3 ++ t) = true
  revert t
  decide

theorem ldv : Statement .ldv := by simp only [Statement]; decide

theorem rnd (t : BitVec 6) : Statement (.rnd t) := by
  show Row.rnd.holds (0b100#3 ++ t) = true
  revert t
  decide

theorem add : Statement .add := by simp only [Statement]; decide

end Sys2Proof.Laws.RowMatch
end

