-- ==== Sys2Proof/Laws/Sequencer.lean ====
section
/-! SUPPORT. The micro-operation each legal sequencer word selects, and the next-state function's
own facts (30_encoding.md R66, R67). -/

namespace Sys2Proof.Machine

@[simp] theorem Seq.idle_phase : Seq.idle.phase = Phase.idle := rfl
@[simp] theorem Seq.load_phase : Seq.load.phase = Phase.load := rfl
@[simp] theorem Seq.firstExpand_phase : Seq.firstExpand.phase = Phase.expand := rfl
@[simp] theorem Seq.initv_phase : Seq.initv.phase = Phase.initv := rfl
@[simp] theorem Seq.firstRound_phase : Seq.firstRound.phase = Phase.round := rfl
@[simp] theorem Seq.addback_phase : Seq.addback.phase = Phase.addback := rfl
@[simp] theorem Seq.firstExpand_t : Seq.firstExpand.t = 16#6 := rfl
@[simp] theorem Seq.firstRound_t : Seq.firstRound.t = 0#6 := rfl

/-- The sequencer index, read as a register index. -/
@[simp] theorem wordIndex_val (t : BitVec 6) : (wordIndex t).val = t.toNat := rfl

@[simp] theorem blockAddr_val (a : BitVec 6) : (blockAddr a).val = a.toNat := rfl

@[simp] theorem digestAddr_val (a : BitVec 5) : (digestAddr a).val = a.toNat := rfl

theorem engineEvent_load : engineEvent Seq.load = .perform .ldw := by decide

theorem engineEvent_expand :
    ∀ t : BitVec 6, 16 ≤ t.toNat → engineEvent { phase := .expand, t := t } = .perform (.exp t) := by
  decide

theorem engineEvent_initv : engineEvent Seq.initv = .perform .ldv := by decide

theorem engineEvent_round :
    ∀ t : BitVec 6, engineEvent { phase := .round, t := t } = .perform (.rnd t) := by
  decide

theorem engineEvent_addback : engineEvent Seq.addback = .perform .add := by decide

/-- A busy sequencer word outside R26's list selects nothing (R69). -/
theorem engineEvent_illegal (q : Seq) (hb : q.phase ≠ .idle) (h : q.legal = false) :
    engineEvent q = .stuck := by
  obtain ⟨p, t⟩ := q
  revert hb h
  revert t
  cases p <;> decide

/-- A legal busy sequencer word, with the micro-operation it selects (R66). -/
theorem Seq.busy_cases (q : Seq) (h : q.legal = true) (hb : q.phase ≠ .idle) :
    (q = Seq.load ∧ engineEvent q = .perform .ldw) ∨
    (∃ t, q = { phase := .expand, t := t } ∧ 16 ≤ t.toNat ∧ engineEvent q = .perform (.exp t)) ∨
    (q = Seq.initv ∧ engineEvent q = .perform .ldv) ∨
    (∃ t, q = { phase := .round, t := t } ∧ engineEvent q = .perform (.rnd t)) ∨
    (q = Seq.addback ∧ engineEvent q = .perform .add) := by
  obtain ⟨p, t⟩ := q
  cases p with
  | idle => exact absurd rfl hb
  | load =>
    obtain rfl : t = 0#6 := by simpa [Seq.legal] using h
    exact .inl ⟨rfl, engineEvent_load⟩
  | expand =>
    have ht : 16 ≤ t.toNat := by simpa [Seq.legal] using h
    exact .inr (.inl ⟨t, rfl, ht, engineEvent_expand t ht⟩)
  | initv =>
    obtain rfl : t = 0#6 := by simpa [Seq.legal] using h
    exact .inr (.inr (.inl ⟨rfl, engineEvent_initv⟩))
  | round => exact .inr (.inr (.inr (.inl ⟨t, rfl, engineEvent_round t⟩)))
  | addback =>
    obtain rfl : t = 0#6 := by simpa [Seq.legal] using h
    exact .inr (.inr (.inr (.inr ⟨rfl, engineEvent_addback⟩)))

/-- A legal word of phase IDLE is (IDLE, 0). -/
theorem Seq.eq_idle_of_legal (q : Seq) (h : q.legal = true) (hp : q.phase = .idle) :
    q = Seq.idle := by
  obtain ⟨p, t⟩ := q
  subst hp
  obtain rfl : t = 0#6 := by simpa [Seq.legal] using h
  rfl

/-- The index after one more EXP or RND, where the loop goes on. -/
theorem toNat_succ_of_lt (t : BitVec 6) (h : t.toNat < 63) : (t + 1#6).toNat = t.toNat + 1 := by
  rw [BitVec.toNat_add]
  simp
  omega

end Sys2Proof.Machine
end

