-- ==== Sys2Proof/Laws/Step.lean ====
section
/-! SUPPORT. What one step can do, said once: the effect of each instruction, and the inversion of
`step` by the event of R144. -/

namespace Sys2Proof.Machine

/-! ## The effect of each instruction -/

@[simp] theorem exec_nop (s : State) : exec .nop s = .next s := rfl
@[simp] theorem exec_init (s : State) : exec .init s = .next (s.setH iv) := rfl
@[simp] theorem exec_wrb (a : BitVec 6) (d : Byte) (s : State) :
    exec (.wrb a d) s = .next (s.writeBlock (blockAddr a) d) := rfl
@[simp] theorem exec_run (s : State) : exec .run s = .next (s.setSeq Seq.load) := rfl
@[simp] theorem exec_rdd (a : BitVec 5) (s : State) :
    exec (.rdd a) s = .next (s.respond (s.readDigest (digestAddr a))) := rfl
@[simp] theorem exec_ldw (s : State) :
    exec .ldw s = .next (s.loadSchedule.setSeq Seq.firstExpand) := rfl
@[simp] theorem exec_ldv (s : State) :
    exec .ldv s = .next ((s.setX s.h).setSeq Seq.firstRound) := rfl
@[simp] theorem exec_rnd (t : BitVec 6) (s : State) :
    exec (.rnd t) s =
      .next ((s.setX (roundVars s.x (kAt (wordIndex t)) s.w[(wordIndex t).val])).setSeq
        (Seq.afterRound t)) := rfl
@[simp] theorem exec_add (s : State) :
    exec .add s = .next ((s.setH (addWords s.h s.x)).setSeq Seq.idle) := rfl

theorem exec_exp (t : BitVec 6) (s : State) (ht : 16 ≤ t.toNat) :
    exec (.exp t) s =
      .next ((s.setW (wordIndex t) (expandWord s.w (wordIndex t))).setSeq (Seq.afterExpand t)) := by
  simp [exec, execExp, ht]

theorem exec_exp_stuck (t : BitVec 6) (s : State) (ht : t.toNat < 16) :
    exec (.exp t) s = .fault .stuckSequencer := by
  simp [exec, execExp, Nat.not_le.mpr ht]

/-! ## The event of a step -/

theorem event_reset (s : State) (h : s.rstPin = true) : s.event = .reset := by
  simp [State.event, h]

theorem event_busy (s : State) (hr : s.rstPin = false) (hb : s.seq.phase ≠ .idle) :
    s.event = engineEvent s.seq := by
  simp [State.event, hr, State.busy, hb]

theorem event_idle (s : State) (hr : s.rstPin = false) (hi : s.seq = Seq.idle) :
    s.event = if s.cmdValidPin then commandEvent s.cmdPin else .quiet := by
  cases hv : s.cmdValidPin <;>
    simp [State.event, hr, State.busy, State.idle, State.accepted, State.cmdReady, hi, hv]

/-- What accepting a word does: its command, or ILLEGAL of the word itself (R73, R85). -/
theorem commandEvent_cases (c : Word) :
    (∃ i, decodeCommand c = .instr i ∧ i.agent = .host ∧ commandEvent c = .accept i) ∨
    (decodeCommand c = .illegal c ∧ commandEvent c = .illegal c) := by
  rcases decodeCommand_total c with ⟨i, h, ha⟩ | h
  · exact .inl ⟨i, h, ha, by simp [commandEvent, h]⟩
  · exact .inr ⟨h, by simp [commandEvent, h]⟩

theorem event_stuck (s : State) (hr : s.rstPin = false) (hl : s.seq.legal = false) :
    s.event = .stuck := by
  by_cases hb : s.seq.phase = .idle
  · have hi : s.seq ≠ Seq.idle := fun e => by rw [e] at hl; simp [Seq.legal] at hl; exact hl rfl
    simp [State.event, hr, State.busy, hb, State.idle, hi]
  · rw [event_busy s hr hb, engineEvent_illegal s.seq hb hl]

/-! ## One step from a legal state -/

/-- Every way a step from a legal sequencer word can go (R8, R144): reset, one of the five
micro-operations, one of the five commands, an illegal word, or an idle port. -/
theorem step_cases (s : State) (hl : s.seq.legal = true) :
    (s.rstPin = true ∧ step s = .next s.held.takeReset) ∨
    (s.rstPin = false ∧ s.seq = Seq.load ∧
      step s = .next (s.held.loadSchedule.setSeq Seq.firstExpand)) ∨
    (∃ t, s.rstPin = false ∧ s.seq = { phase := .expand, t := t } ∧ 16 ≤ t.toNat ∧
      step s = .next ((s.held.setW (wordIndex t) (expandWord s.w (wordIndex t))).setSeq
        (Seq.afterExpand t))) ∨
    (s.rstPin = false ∧ s.seq = Seq.initv ∧
      step s = .next ((s.held.setX s.h).setSeq Seq.firstRound)) ∨
    (∃ t, s.rstPin = false ∧ s.seq = { phase := .round, t := t } ∧
      step s = .next ((s.held.setX
        (roundVars s.x (kAt (wordIndex t)) s.w[(wordIndex t).val])).setSeq (Seq.afterRound t))) ∨
    (s.rstPin = false ∧ s.seq = Seq.addback ∧
      step s = .next ((s.held.setH (addWords s.h s.x)).setSeq Seq.idle)) ∨
    (∃ i, s.rstPin = false ∧ s.seq = Seq.idle ∧ s.cmdValidPin = true ∧
      decodeCommand s.cmdPin = .instr i ∧ i.agent = .host ∧ step s = exec i s.consumed) ∨
    (s.rstPin = false ∧ s.seq = Seq.idle ∧ s.cmdValidPin = true ∧
      decodeCommand s.cmdPin = .illegal s.cmdPin ∧
      step s = .next (s.consumed.raiseIllegalCommand s.cmdPin)) ∨
    (s.rstPin = false ∧ s.seq = Seq.idle ∧ s.cmdValidPin = false ∧ step s = .next s.held) := by
  cases hr : s.rstPin with
  | true => exact .inl ⟨rfl, by simp [step, event_reset s hr]⟩
  | false =>
    by_cases hb : s.seq.phase = .idle
    · have hi := Seq.eq_idle_of_legal s.seq hl hb
      cases hv : s.cmdValidPin with
      | false => simp [step, event_idle s hr hi, hi, hv]
      | true =>
        have he : s.event = commandEvent s.cmdPin := by simp [event_idle s hr hi, hv]
        rcases commandEvent_cases s.cmdPin with ⟨i, hd, ha, hc⟩ | ⟨hd, hc⟩
        · exact .inr (.inr (.inr (.inr (.inr (.inr (.inl
            ⟨i, rfl, hi, rfl, hd, ha, by simp [step, he, hc]⟩))))))
        · exact .inr (.inr (.inr (.inr (.inr (.inr (.inr (.inl
            ⟨rfl, hi, rfl, hd, by simp [step, he, hc]⟩)))))))
    · have he := event_busy s hr hb
      rcases Seq.busy_cases s.seq hl hb with ⟨h, hp⟩ | ⟨t, h, ht, hp⟩ | ⟨h, hp⟩ | ⟨t, h, hp⟩ | ⟨h, hp⟩
      · exact .inr (.inl ⟨rfl, h, by simp [step, he, hp]⟩)
      · exact .inr (.inr (.inl ⟨t, rfl, h, ht, by simp [step, he, hp, exec_exp t _ ht]⟩))
      · exact .inr (.inr (.inr (.inl ⟨rfl, h, by simp [step, he, hp]⟩)))
      · exact .inr (.inr (.inr (.inr (.inl ⟨t, rfl, h, by simp [step, he, hp]⟩))))
      · exact .inr (.inr (.inr (.inr (.inr (.inl ⟨rfl, h, by simp [step, he, hp]⟩)))))

/-- A reserved sequencer word is stuck: no step is enabled (R69). -/
theorem step_stuck (s : State) (hr : s.rstPin = false) (hl : s.seq.legal = false) :
    step s = .fault .stuckSequencer := by
  simp [step, event_stuck s hr hl]

/-! ## Runs -/

/-- `run` is the host's own run of this machine. -/
theorem run_eq_core_run (n : Nat) (s : State) : Host.Core.run Sys2Proof.core n s = run n s := by
  induction n generalizing s with
  | zero => rfl
  | succ n ih =>
    simp only [Host.Core.run, run, show Sys2Proof.core.step s = step s from rfl]
    cases step s with
    | next t => exact ih t
    | fault r => rfl
    | refused r => rfl

@[simp] theorem run_zero (s : State) : run 0 s = .next s := rfl

/-- A run of n + 1 steps whose first step answers `t`. -/
theorem run_succ {n : Nat} {s t : State} (h : step s = .next t) : run (n + 1) s = run n t := by
  rw [run, h]

/-- Two runs, one after the other. -/
theorem run_add {j : Nat} (k : Nat) {s t : State} (h : run j s = .next t) :
    run (j + k) s = run k t := by
  induction j generalizing s with
  | zero =>
    rw [run_zero] at h
    cases h
    rw [Nat.zero_add]
  | succ j ih =>
    rw [Nat.succ_add, run]
    rw [run] at h
    cases hs : step s with
    | next u =>
      rw [hs] at h
      exact ih h
    | fault r => rw [hs] at h; cases h
    | refused r => rw [hs] at h; cases h

end Sys2Proof.Machine
end

