-- ==== Sys2Proof/Tests/Slice0.lean ====
section
/-! SUPPORT. Tests and witnesses. The expected values come from spec/95_test_vectors.md and the
examples of the rules, never from the model. Witnesses show that the hypotheses of each obligation
can be met, at the boundary values of each clause. -/

namespace Sys2Proof.Tests

open Sys2Proof.Machine

/-! ## Helpers -/

/-- A small state: idle, every register zero, nothing on the port. -/
def base : State where
  seq := Seq.idle
  err := false
  h := Vector.replicate 8 0#32
  x := Vector.replicate 8 0#32
  w := Vector.replicate 64 0#32
  b := Vector.replicate 64 0#8
  stream := []
  responses := []
  draws := 0

/-- `base` at a sequencer word. -/
def at' (p : Phase) (t : BitVec 6) : State := { base with seq := { phase := p, t := t } }

/-- `base` with host moves on the port. -/
def port (l : List HostMove) : State := { base with stream := l }

/-- The next state, where there is one. -/
def nextOf : Host.Outcome State Fault Refusal → Option State
  | .next t => some t
  | .fault _ => none
  | .refused _ => none

/-- Something of the next state. -/
def look {α : Type} (o : Host.Outcome State Fault Refusal) (f : State → α) : Option α :=
  (nextOf o).map f

/-- Whether the outcome is a stuck sequencer. -/
def isStuck : Host.Outcome State Fault Refusal → Bool
  | .next _ => false
  | .fault .stuckSequencer => true
  | .refused _ => false

/-- H after the "abc" block (R114). -/
def abcH : Vector Word 8 :=
  #v[0xBA7816BF#32, 0x8F01CFEA#32, 0x414140DE#32, 0x5DAE2223#32,
     0xB00361A3#32, 0x96177A9C#32, 0xB410FF61#32, 0xF20015AD#32]

/-- 1, 2, …, 8, the words of V-LDV and V-RND-5. -/
def oneToEight : Vector Word 8 := #v[1#32, 2#32, 3#32, 4#32, 5#32, 6#32, 7#32, 8#32]

/-! ## WellFormed refuses the one ill-formed shape -/

theorem test_wellFormed_exp_below_sixteen : (Instr.exp 15#6).wellFormed = false := by decide
theorem test_wellFormed_exp_zero : (Instr.exp 0#6).wellFormed = false := by decide
theorem test_wellFormed_exp_bounds :
    (Instr.exp 16#6).wellFormed = true ∧ (Instr.exp 63#6).wellFormed = true := by decide

/-! ## Decoding: words written out bit by bit (R62, R66, V-ENC, V-SEQ) -/

theorem test_decode_nop : decodeCommand 0b00000000000000000000000000000000#32 = .instr .nop := by
  decide
theorem test_decode_init : decodeCommand 0b00010000000000000000000000000000#32 = .instr .init := by
  decide
theorem test_decode_wrb :
    decodeCommand 0b00100000000000000000001110000000#32 = .instr (.wrb 3#6 0x80#8) := by decide
theorem test_decode_run : decodeCommand 0b00110000000000000000000000000000#32 = .instr .run := by
  decide
theorem test_decode_rdd :
    decodeCommand 0b01000000000000000001111100000000#32 = .instr (.rdd 31#5) := by decide
theorem test_decode_ldw : decodeSequencer 0b001000000#9 = .instr .ldw := by decide
theorem test_decode_exp : decodeSequencer 0b010010001#9 = .instr (.exp 17#6) := by decide
theorem test_decode_ldv : decodeSequencer 0b011000000#9 = .instr .ldv := by decide
theorem test_decode_rnd : decodeSequencer 0b100000101#9 = .instr (.rnd 5#6) := by decide
theorem test_decode_add : decodeSequencer 0b101000000#9 = .instr .add := by decide

/-- The illegal rows of V-ENC, rejected by name. -/
theorem test_decode_illegal :
    [0x20004000#32, 0x20008000#32, 0x40002000#32, 0x40000001#32, 0x30000001#32, 0x30000100#32,
     0x10000001#32, 0x00000001#32, 0x00010000#32, 0x20010061#32, 0x28000000#32, 0x50000000#32,
     0xF0000000#32, 0xFFFFFFFF#32].all (fun c => decide (decodeCommand c = .illegal c)) = true := by
  decide

/-- The unreachable rows of V-SEQ, and the idle word. -/
theorem test_decode_reserved :
    [0x001#9, 0x041#9, 0x080#9, 0x08F#9, 0x0C1#9, 0x141#9, 0x180#9, 0x1FF#9].all
      (fun q => decide (decodeSequencer q = .reserved q)) = true ∧
    decodeSequencer 0x000#9 = .idle := by decide

/-- The round trip of V-ENC: enc(WRB 0x3F, 0x18) and enc(RDD 0x1F). -/
theorem test_encode :
    encode (.wrb 0x3F#6 0x18#8) = .command 0x20003F18#32 ∧
    encode (.rdd 0x1F#5) = .command 0x40001F00#32 ∧
    encode (.exp 63#6) = .sequencer 0x0BF#9 := by decide

/-- The host's numbering: format U words in 16 bits, format C words in 32. -/
theorem test_decodeTableWord :
    decodeTableWord 16 0x13F = some (.rnd 63#6) ∧ decodeTableWord 16 0x080 = none ∧
    decodeTableWord 32 0x20000061 = some (.wrb 0#6 0x61#8) ∧ decodeTableWord 32 0x50000000 = none := by
  decide

/-! ## The instructions, one step each -/

/-- R80: NOP on the port of an idle engine. -/
theorem test_nop : nextOf (step (port [.present 0x00000000#32])) = some base := by decide

/-- R81: INIT, then RDD 0 returns 6A and RDD 31 returns 19. -/
theorem test_init : look (exec .init base) (fun t => (t.readDigest 0, t.readDigest 31, t.b)) =
    some (0x6A#8, 0x19#8, base.b) := by decide

/-- R82: WRB 0x3F, 0x18 sets B[63] and nothing near it. -/
theorem test_wrb : look (step (port [.present 0x20003F18#32]))
    (fun t => (t.readBlock 63, t.readBlock 62, t.readBlock 0)) = some (0x18#8, 0#8, 0#8) := by decide

/-- P6 step 1: an accepted RUN sets seq to 0x040 and nothing else. -/
theorem test_run : look (step (port [.present 0x30000000#32]))
    (fun t => (t.seq.word, t.busy, t.h)) = some (0x040#9, true, base.h) := by decide

/-- V-DIG: the DIGEST view of the "abc" state. -/
theorem test_rdd : ([0#5, 1#5, 2#5, 3#5, 28#5, 31#5].map fun a =>
    look (exec (.rdd a) { base with h := abcH }) fun t => t.responses) =
    [some [0xBA#8], some [0x78#8], some [0x16#8], some [0xBF#8], some [0xF2#8], some [0xAD#8]] := by
  decide

/-- V-LDW: B[j] = j. -/
theorem test_ldw :
    look (step { at' .load 0#6 with b := Vector.ofFn fun j => BitVec.ofNat 8 j.val })
      (fun t => ([t.w[0], t.w[1], t.w[7], t.w[15], t.w[16]], t.seq.word)) =
    some ([0x00010203#32, 0x04050607#32, 0x1C1D1E1F#32, 0x3C3D3E3F#32, 0#32], 0x090#9) := by decide

/-- V-EXP: the step at 0x090 after V-LDW. -/
theorem test_exp :
    look (step { at' .expand 16#6 with
        w := Vector.ofFn fun i => if i.val < 16 then BitVec.ofNat 32 (0x00010203 + i.val * 0x04040404)
          else 0#32 })
      (fun t => (t.w[16], t.w[17], t.seq.word)) = some (0x2D84894C#32, 0#32, 0x091#9) := by decide

/-- V-EXP: at (EXPAND, 63) the next word is 0x0C0, not (EXPAND, 64). -/
theorem test_exp_last : look (step (at' .expand 63#6)) (fun t => t.seq.word) = some 0x0C0#9 := by
  decide

/-- V-LDV. -/
theorem test_ldv : look (step { at' .initv 0#6 with h := oneToEight })
    (fun t => (t.x, t.h, t.seq.word)) = some (oneToEight, oneToEight, 0x100#9) := by decide

/-- V-RND-63. -/
theorem test_rnd_last :
    look (step { at' .round 63#6 with
        x := Vector.replicate 8 0xFFFFFFFF#32, w := Vector.replicate 64 0xFFFFFFFF#32 })
      (fun t => (t.x, t.seq.word)) =
    some (#v[0xC67178EC#32, 0xFFFFFFFF#32, 0xFFFFFFFF#32, 0xFFFFFFFF#32,
             0xC67178ED#32, 0xFFFFFFFF#32, 0xFFFFFFFF#32, 0xFFFFFFFF#32], 0x140#9) := by decide

/-- V-RND-5. -/
theorem test_rnd :
    look (step { at' .round 5#6 with x := oneToEight, w := base.w.set 5 0x12345678#32 })
      (fun t => t.x) =
    some #v[0xC0CD6EFA#32, 1#32, 2#32, 3#32, 0x80C56AFB#32, 5#32, 6#32, 7#32] := by decide

/-- V-ADD: wraps, and no carry passes between words. -/
theorem test_add :
    look (step { at' .addback 0#6 with
        h := #v[0xFFFFFFFF#32, 0x80000000#32, 0x00000000#32, 0x12345678#32,
                0xFFFFFFFF#32, 0x00000001#32, 0x7FFFFFFF#32, 0xDEADBEEF#32]
        x := #v[0x00000001#32, 0x80000000#32, 0x00000000#32, 0x87654321#32,
                0xFFFFFFFF#32, 0xFFFFFFFF#32, 0x00000001#32, 0x21524111#32] })
      (fun t => (t.h, t.seq.word)) =
    some (#v[0x00000000#32, 0x00000000#32, 0x00000000#32, 0x99999999#32,
             0xFFFFFFFE#32, 0x00000000#32, 0x80000000#32, 0x00000000#32], 0x000#9) := by decide

/-! ## The port, ERR and reset -/

/-- P4: a word that looks like RUN, with DATA = 1, sets ERR and starts nothing. -/
theorem test_illegal : look (step (port [.present 0x30000001#32]))
    (fun t => (t.err, t.seq.word, t.busy, t.responses)) = some (true, 0x000#9, false, []) := by decide

/-- P6 step 2: an RDD presented to a busy engine is held and returns nothing. -/
theorem test_held : look (step { at' .load 0#6 with stream := [.present 0x40000000#32] })
    (fun t => (t.stream, t.responses, t.seq.word)) =
    some ([.present 0x40000000#32], [], 0x090#9) := by decide

/-- P6: reset in the middle of a compression: seq 0x000, ERR 0. -/
theorem test_reset : look (step { at' .round 9#6 with err := true, stream := [.pins true true 0#32] })
    (fun t => (t.seq.word, t.err, t.stream, t.responses)) = some (0x000#9, false, [], []) := by decide

/-- R69: (IDLE, 1) is stuck, also when a command is presented. -/
theorem test_stuck : isStuck (step { at' .idle 1#6 with stream := [.present 0#32] }) = true := by
  decide

/-- The first step after reset with a table word in place runs it. -/
theorem test_withFetchWord :
    look (step (State.reset.withFetchWord 16 0x140)) (fun t => t.seq.word) = some 0x000#9 ∧
    look (step (State.reset.withFetchWord 32 0x30000000)) (fun t => t.seq.word) = some 0x040#9 := by
  decide

/-! ## Known answers -/

/-- S1: the digest of "abc". -/
theorem test_sha256_abc : sha256Bytes [0x61#8, 0x62#8, 0x63#8] =
    [0xBA#8, 0x78#8, 0x16#8, 0xBF#8, 0x8F#8, 0x01#8, 0xCF#8, 0xEA#8,
     0x41#8, 0x41#8, 0x40#8, 0xDE#8, 0x5D#8, 0xAE#8, 0x22#8, 0x23#8,
     0xB0#8, 0x03#8, 0x61#8, 0xA3#8, 0x96#8, 0x17#8, 0x7A#8, 0x9C#8,
     0xB4#8, 0x10#8, 0xFF#8, 0x61#8, 0xF2#8, 0x00#8, 0x15#8, 0xAD#8] := by decide +kernel

/-- S2: the digest of the empty message. -/
theorem test_sha256_empty : sha256Bytes [] =
    [0xE3#8, 0xB0#8, 0xC4#8, 0x42#8, 0x98#8, 0xFC#8, 0x1C#8, 0x14#8,
     0x9A#8, 0xFB#8, 0xF4#8, 0xC8#8, 0x99#8, 0x6F#8, 0xB9#8, 0x24#8,
     0x27#8, 0xAE#8, 0x41#8, 0xE4#8, 0x64#8, 0x9B#8, 0x93#8, 0x4C#8,
     0xA4#8, 0x95#8, 0x99#8, 0x1B#8, 0x78#8, 0x52#8, 0xB8#8, 0x55#8] := by decide +kernel

/-- Whether a host call answers these bytes. -/
def answers (o : Except HostError (List Byte)) (l : List Byte) : Bool :=
  match o with
  | .ok d => d == l
  | .error _ => false

/-- S3: HMAC of "The quick brown fox jumps over the lazy dog" under "key". -/
theorem test_hmac : answers
    (hmac [0x6B#8, 0x65#8, 0x79#8]
      [0x54#8, 0x68#8, 0x65#8, 0x20#8, 0x71#8, 0x75#8, 0x69#8, 0x63#8, 0x6B#8, 0x20#8, 0x62#8, 0x72#8,
       0x6F#8, 0x77#8, 0x6E#8, 0x20#8, 0x66#8, 0x6F#8, 0x78#8, 0x20#8, 0x6A#8, 0x75#8, 0x6D#8, 0x70#8,
       0x73#8, 0x20#8, 0x6F#8, 0x76#8, 0x65#8, 0x72#8, 0x20#8, 0x74#8, 0x68#8, 0x65#8, 0x20#8, 0x6C#8,
       0x61#8, 0x7A#8, 0x79#8, 0x20#8, 0x64#8, 0x6F#8, 0x67#8])
    [0xF7#8, 0xBC#8, 0x83#8, 0xF4#8, 0x30#8, 0x53#8, 0x84#8, 0x24#8, 0xB1#8, 0x32#8, 0x98#8, 0xE6#8,
     0xAA#8, 0x6F#8, 0xB1#8, 0x43#8, 0xEF#8, 0x4D#8, 0x59#8, 0xA1#8, 0x49#8, 0x46#8, 0x17#8, 0x59#8,
     0x97#8, 0x47#8, 0x9D#8, 0xBC#8, 0x2D#8, 0x1A#8, 0x3C#8, 0xD8#8] = true := by decide +kernel

/-- S4: HKDF of "hello", 16 bytes. -/
theorem test_hkdf : answers
    (hkdfDerive 16 [0x68#8, 0x65#8, 0x6C#8, 0x6C#8, 0x6F#8]
      [0x8E#8, 0x94#8, 0xEF#8, 0x80#8, 0x5B#8, 0x93#8, 0xE6#8, 0x83#8, 0xFF#8, 0x18#8] [])
    [0x13#8, 0x48#8, 0x50#8, 0x67#8, 0xE2#8, 0x1A#8, 0xF1#8, 0x7C#8, 0x09#8, 0x00#8, 0xF7#8, 0x0D#8,
     0x88#8, 0x5F#8, 0x02#8, 0x59#8] = true := by decide +kernel

/-! ## Witnesses: the hypotheses of the statements can be met, at the boundaries of each clause -/

/-- A word that is no command is no instruction. -/
theorem not_instr_of_illegal (c : Word) (h : decodeCommand c = .illegal c) :
    ∀ i, decodeCommand c ≠ .instr i := by
  intro i
  rw [h]
  exact nofun

theorem witness_DecodeOfEncodeIsTheInstruction :
    (Instr.exp 16#6).WellFormed ∧ (Instr.exp 63#6).WellFormed ∧ (Instr.rnd 0#6).WellFormed ∧
    (Instr.rnd 63#6).WellFormed ∧ (Instr.wrb 63#6 255#8).WellFormed ∧ (Instr.rdd 31#5).WellFormed := by
  decide

theorem witness_CommandDecoderAndEncoderAreInverse :
    (Instr.wrb 63#6 255#8).agent = .host ∧
    decodeCommand 0x20003FFF#32 = .instr (.wrb 63#6 255#8) ∧
    decodeCommand 0x40001F00#32 = .instr (.rdd 31#5) := by decide

theorem witness_IllegalCommandWordsAreExactlyThese :
    (port [.present 0x20004000#32]).seq = { phase := .idle, t := 0#6 } ∧
    (port [.present 0x20004000#32]).accepted = some 0x20004000#32 ∧
    ∀ i, decodeCommand 0x20004000#32 ≠ .instr i :=
  ⟨rfl, by decide, not_instr_of_illegal _ (by decide)⟩

/-- Clause 1: a busy engine at each of the micro-operations, with the ends of t. -/
theorem witness_StepRunsTheDecodedInstruction_engine :
    ([(at' .load 0#6, Instr.ldw), (at' .expand 16#6, .exp 16#6), (at' .expand 63#6, .exp 63#6),
      (at' .initv 0#6, .ldv), (at' .round 0#6, .rnd 0#6), (at' .round 63#6, .rnd 63#6),
      (at' .addback 0#6, .add)]).all (fun p => decide (p.1.rstPin = false ∧ p.1.seq.phase ≠ .idle ∧
        decodeSequencer p.1.seq.word = .instr p.2)) = true := by decide

/-- Clause 2: an idle engine with each of the commands presented. -/
theorem witness_StepRunsTheDecodedInstruction_host :
    ([(0x00000000#32, Instr.nop), (0x10000000#32, .init), (0x20003FFF#32, .wrb 63#6 255#8),
      (0x30000000#32, .run), (0x40001F00#32, .rdd 31#5)]).all (fun p =>
        decide ((port [.present p.1]).seq = { phase := .idle, t := 0#6 } ∧
          (port [.present p.1]).accepted = some p.1 ∧ decodeCommand p.1 = .instr p.2)) = true := by
  decide

/-- Idle, busy and stuck states in which `rst` is asserted. -/
theorem witness_ResetTakesEffectInAnyState :
    (port [.pins true true 0x30000000#32]).rstPin = true ∧
    ({ at' .round 63#6 with stream := [.pins true false 0#32] } : State).rstPin = true ∧
    ({ at' .idle 1#6 with stream := [.pins true false 0#32] } : State).rstPin = true := by decide

theorem witness_ResetDrawsTheDataStateAnew :
    ({ at' .expand 16#6 with stream := [.pins true true 0#32] } : State).rstPin = true := by decide

theorem witness_IllegalCommandSetsErrOnly :
    ({ port [.present 0x50000000#32] with err := true } : State).seq = { phase := .idle, t := 0#6 } ∧
    ({ port [.present 0x50000000#32] with err := true } : State).accepted = some 0x50000000#32 ∧
    decodeCommand 0x50000000#32 = .illegal 0x50000000#32 ∧
    ({ port [.present 0x50000000#32] with err := true } : State).err = true := by decide

/-- Clause 2: acceptance of a legal word; clause 5: an idle port. -/
theorem witness_BusyEngineHoldsThePresentedCommand_idle :
    (port [.present 0x30000000#32]).accepted = some 0x30000000#32 ∧
    decodeCommand 0x30000000#32 = .instr .run ∧ base.seq = { phase := .idle, t := 0#6 } ∧
    base.rstPin = false ∧ base.cmdValidPin = false := by decide

/-- Clause 3: an accepted RDD. -/
theorem witness_BusyEngineHoldsThePresentedCommand_rdd :
    (port [.present 0x40001F00#32]).seq = { phase := .idle, t := 0#6 } ∧
    (port [.present 0x40001F00#32]).accepted = some 0x40001F00#32 ∧
    decodeCommand 0x40001F00#32 = .instr (.rdd 31#5) := by decide

/-- Clause 4, in the first and in the last busy state. -/
theorem witness_BusyEngineHoldsThePresentedCommand_busy :
    ([at' .load 0#6, at' .addback 0#6].map fun q => ({ q with stream := [.present 0#32] } : State)).all
      (fun s => decide (s.SeqLegal ∧ s.busy = true ∧ s.stream = .present 0#32 :: [])) = true := by
  decide

theorem witness_WithdrawnCommandIsNeverExecuted :
    ([at' .load 0#6, at' .round 63#6, at' .addback 0#6].map fun q =>
      ({ q with stream := [.pins false true 0x30000000#32] } : State)).all
      (fun s => decide (s.SeqLegal ∧ s.busy = true ∧
        s.stream = .pins false true 0x30000000#32 :: [])) = true := by decide

theorem witness_LegalCommandsNeitherFailNorTouchErr :
    (Instr.run).agent = .host ∧ (Instr.rdd 31#5).agent = .host ∧
    (Instr.rdd 31#5 ≠ Instr.run) := by decide

/-- Clause 3: NOP accepted; clause 4: NOP presented to a busy engine, first and last state. -/
theorem witness_NopKeepsEverything :
    ((port [.present 0#32]).seq = { phase := .idle, t := 0#6 } ∧
      (port [.present 0#32]).accepted = some 0x00000000#32) ∧
    ([at' .load 0#6, at' .addback 0#6].map fun q => ({ q with stream := [.present 0#32] } : State)).all
      (fun s => decide (s.SeqLegal ∧ s.busy = true ∧ s.stream = .present 0x00000000#32 :: [])) = true := by
  decide

/-- Two addresses at the ends of the space, and the first word past it. -/
theorem witness_WrbWritesOneBlockByte :
    (0#6 ≠ 63#6 ∧ (∃ t, exec (.wrb 0#6 1#8) base = .next t) ∧ ∃ t, exec (.wrb 63#6 2#8) base = .next t) ∧
    ((0x20004000#32).extractLsb' 28 4 = 2#4 ∧ 63 < ((0x20004000#32).extractLsb' 8 8).toNat) :=
  ⟨⟨by decide, ⟨_, rfl⟩, ⟨_, rfl⟩⟩, by decide⟩

theorem witness_ExpExpandsOneScheduleWord :
    16 ≤ (16#6).toNat ∧ 16 ≤ (62#6).toNat ∧ 16 ≤ (63#6).toNat := by decide

theorem witness_ExpBelowSixteenIsStuck : (0#6).toNat < 16 ∧ (15#6).toNat < 16 := by decide

theorem witness_CommandsButRunAreIdempotent :
    ∀ i ∈ [Instr.nop, .init, .wrb 63#6 255#8, .rdd 31#5],
      i.agent = .host ∧ i ≠ .run ∧ ∃ t, exec i base = .next t := by
  intro i hi
  simp only [List.mem_cons, List.not_mem_nil, or_false] at hi
  rcases hi with rfl | rfl | rfl | rfl <;> exact ⟨rfl, by decide, _, rfl⟩

theorem witness_RotateAndShiftMoveBits :
    ((0 < 1 ∧ 1 < 32) ∧ (0 < 31 ∧ 31 < 32)) ∧ (0 < 32 ∧ 31 < 32) := by decide

theorem witness_SmallSigmasRotateAndShift : 0 < 32 ∧ 31 < 32 := by decide
theorem witness_BigSigmasRotate : 0 < 32 ∧ 31 < 32 := by decide
theorem witness_ChChoosesAndMajIsTheMajority : 0 < 32 ∧ 31 < 32 := by decide

/-- Legal states: idle, busy, and the ends of both counted loops. -/
theorem witness_LegalSequencerAlwaysStepsAndStaysLegal :
    base.SeqLegal ∧ (at' .load 0#6).SeqLegal ∧ (at' .expand 16#6).SeqLegal ∧
    (at' .expand 63#6).SeqLegal ∧ (at' .initv 0#6).SeqLegal ∧ (at' .round 0#6).SeqLegal ∧
    (at' .round 63#6).SeqLegal ∧ (at' .addback 0#6).SeqLegal := by decide

/-- Reserved words next to the legal ones, without and with reset. -/
theorem witness_ReservedSequencerWordIsStuck :
    (¬(at' .expand 15#6).SeqLegal ∧ (at' .expand 15#6).rstPin = false) ∧
    (¬(at' .addback 63#6).SeqLegal ∧
      ({ at' .addback 63#6 with stream := [.pins true false 0#32] } : State).rstPin = true) := by decide

theorem witness_ExactlyTheListedSequencerWordsAreReachable :
    (at' .load 1#6).rstPin = false ∧ (at' .load 1#6).seq.legal = false := by decide

/-- Every row of R67's table has a state: RUN, another command, and each engine step at the ends of t. -/
theorem witness_SequencerFollowsItsFixedWalk_rows :
    ∀ s ∈ [port [.present 0x30000000#32], port [.present 0x50000000#32], base, at' .load 0#6,
        at' .expand 16#6, at' .expand 62#6, at' .expand 63#6, at' .initv 0#6, at' .round 0#6,
        at' .round 62#6, at' .round 63#6, at' .addback 0#6],
      s.SeqLegal ∧ s.rstPin = false ∧ ∃ t, step s = .next t := by
  intro s hs
  simp only [List.mem_cons, List.not_mem_nil, or_false] at hs
  rcases hs with rfl | rfl | rfl | rfl | rfl | rfl | rfl | rfl | rfl | rfl | rfl | rfl <;>
    exact ⟨rfl, rfl, _, rfl⟩

/-- The accepted word of the first two rows, and the bound on t in the counted rows. -/
theorem witness_SequencerFollowsItsFixedWalk_words :
    (port [.present 0x30000000#32]).accepted = some 0x30000000#32 ∧
    (port [.present 0x50000000#32]).accepted ≠ some 0x30000000#32 ∧
    (0#6).toNat ≤ 62 ∧ (62#6).toNat ≤ 62 ∧ 16 ≤ (16#6).toNat ∧ 16 ≤ (63#6).toNat := by decide

theorem witness_SequencerFollowsItsFixedWalk_walk :
    (at' .load 0#6).seq = { phase := .load, t := 0#6 } ∧ noResetFor 115 (at' .load 0#6).stream = true ∧
    0 ≤ 115 ∧ 115 ≤ 115 := by decide

/-- With an idle port, with a held command, and with a command withdrawn on the way. -/
theorem witness_BusyEngineReachesIdle :
    ([[], [HostMove.present 0#32], [.pins false true 0x30000000#32]].map fun l =>
      ({ at' .load 0#6 with stream := l } : State)).all (fun s =>
        decide (s.SeqLegal ∧ s.busy = true ∧ noResetFor 115 s.stream = true)) = true := by decide

/-- In EXPAND, at both ends of the loop. -/
theorem witness_CompressionInFlightStaysCorrect_expand :
    ∀ k ∈ [16#6, 63#6], ∃ s : State, s.seq = { phase := .expand, t := k } ∧ s.SeqLegal ∧
      s.CompressionCorrect ∧ ∃ t, step s = .next t := by
  intro k hk
  simp only [List.mem_cons, List.not_mem_nil, or_false] at hk
  rcases hk with rfl | rfl
  · exact ⟨{ at' .expand 16#6 with w := schedule base.b }, rfl, rfl, fun _ _ => rfl, _, rfl⟩
  · exact ⟨{ at' .expand 63#6 with w := schedule base.b }, rfl, rfl, fun _ _ => rfl, _, rfl⟩

/-- In ROUND, at both ends of the loop. -/
theorem witness_CompressionInFlightStaysCorrect_round :
    ∀ k ∈ [0#6, 63#6], ∃ s : State, s.seq = { phase := .round, t := k } ∧ s.SeqLegal ∧
      s.CompressionCorrect ∧ ∃ t, step s = .next t := by
  intro k hk
  simp only [List.mem_cons, List.not_mem_nil, or_false] at hk
  rcases hk with rfl | rfl
  · exact ⟨{ at' .round 0#6 with
      w := schedule base.b, x := roundsUpTo base.h (schedule base.b) 0 }, rfl, rfl, ⟨rfl, rfl⟩, _, rfl⟩
  · exact ⟨{ at' .round 63#6 with
      w := schedule base.b, x := roundsUpTo base.h (schedule base.b) 63 }, rfl, rfl, ⟨rfl, rfl⟩, _, rfl⟩

/-- In the other busy phases and idle. -/
theorem witness_CompressionInFlightStaysCorrect_rest :
    (∃ t, base.SeqLegal ∧ base.CompressionCorrect ∧ step base = .next t) ∧
    (∃ t, (at' .load 0#6).SeqLegal ∧ (at' .load 0#6).CompressionCorrect ∧
      step (at' .load 0#6) = .next t) ∧
    (∃ s t : State, s.seq = Seq.initv ∧ s.SeqLegal ∧ s.CompressionCorrect ∧ step s = .next t) ∧
    (∃ s t : State, s.seq = Seq.addback ∧ s.SeqLegal ∧ s.CompressionCorrect ∧ step s = .next t) :=
  ⟨⟨_, rfl, trivial, rfl⟩, ⟨_, rfl, trivial, rfl⟩,
   ⟨{ at' .initv 0#6 with w := schedule base.b }, _, rfl, rfl, rfl, rfl⟩,
   ⟨{ at' .addback 0#6 with x := rounds base.h (schedule base.b) }, _, rfl, rfl, rfl, rfl⟩⟩

/-- An accepted RUN with a command held behind it: also the hypotheses of `OldScheduleNeverReachesH`. -/
theorem witness_RunComputesCompress :
    (port [.present 0x30000000#32, .present 0x40000000#32]).seq = { phase := .idle, t := 0#6 } ∧
    (port [.present 0x30000000#32, .present 0x40000000#32]).accepted = some 0x30000000#32 ∧
    noResetFor 115 (port [.present 0x30000000#32, .present 0x40000000#32]).stream.tail = true ∧
    1 ≤ 115 := by decide

theorem witness_OldScheduleNeverReachesH :
    (port [.present 0x30000000#32]).seq = { phase := .idle, t := 0#6 } ∧
    (port [.present 0x30000000#32]).accepted = some 0x30000000#32 ∧
    noResetFor 115 (port [.present 0x30000000#32]).stream.tail = true := by decide

theorem witness_ScheduleSatisfiesItsRecurrence :
    (at' .load 0#6).seq = { phase := .load, t := 0#6 } ∧ noResetFor 49 (at' .load 0#6).stream = true ∧
    16 ≤ (16 : Fin 64).val ∧ 16 ≤ (63 : Fin 64).val := by decide

theorem witness_RoundsRunInOrderFromH :
    (at' .initv 0#6).seq = { phase := .initv, t := 0#6 } ∧
    noResetFor 65 (at' .initv 0#6).stream = true := by decide

/-- H changes in INIT and in ADD. -/
theorem witness_EachRegisterHasOnlyItsWriters_h :
    (∃ t, (port [.present 0x10000000#32]).SeqLegal ∧ (port [.present 0x10000000#32]).rstPin = false ∧
      step (port [.present 0x10000000#32]) = .next t ∧ t.h ≠ (port [.present 0x10000000#32]).h) ∧
    (∃ s t : State, s.SeqLegal ∧ s.rstPin = false ∧ step s = .next t ∧ t.h ≠ s.h ∧
      s.seq.phase = .addback) :=
  ⟨⟨_, rfl, rfl, rfl, by decide⟩, ⟨{ at' .addback 0#6 with x := oneToEight }, _, rfl, rfl, rfl,
    by decide, rfl⟩⟩

/-- x changes in RND, W in LDW, B in WRB. -/
theorem witness_EachRegisterHasOnlyItsWriters_xwb :
    (∃ s t : State, s.SeqLegal ∧ s.rstPin = false ∧ step s = .next t ∧ t.x ≠ s.x) ∧
    (∃ s t : State, s.SeqLegal ∧ s.rstPin = false ∧ step s = .next t ∧ t.w ≠ s.w) ∧
    (∃ s t : State, s.SeqLegal ∧ s.rstPin = false ∧ step s = .next t ∧
      t.readBlock 63 ≠ s.readBlock 63) :=
  ⟨⟨at' .round 0#6, _, rfl, rfl, rfl, by decide⟩,
   ⟨{ at' .load 0#6 with b := base.b.set 63 1#8 }, _, rfl, rfl, rfl, by decide⟩,
   ⟨port [.present 0x20003F18#32], _, rfl, rfl, rfl, by decide⟩⟩

/-- A step that sets ERR, one that keeps it, and one that clears it. -/
theorem witness_ErrIsStickyAndNothingDependsOnIt :
    (∃ t, (port [.present 0x50000000#32]).SeqLegal ∧ step (port [.present 0x50000000#32]) = .next t ∧
      t.err = true) ∧
    (∃ s t : State, s.SeqLegal ∧ s.err = true ∧ step s = .next t ∧ t.err = true) ∧
    (∃ s t : State, s.SeqLegal ∧ s.err = true ∧ step s = .next t ∧ t.err = false) :=
  ⟨⟨_, rfl, rfl, rfl⟩, ⟨{ base with err := true }, _, rfl, rfl, rfl, rfl⟩,
   ⟨{ port [.pins true false 0#32] with err := true }, _, rfl, rfl, rfl, rfl⟩⟩

theorem witness_SequencingIsIndependentOfData :
    ∃ t, step (at' .round 9#6) = .next t := ⟨_, rfl⟩

/-- A busy engine with two hosts that differ in what comes next and in what they received, and an idle one
that accepts the same RDD from both. -/
theorem witness_EngineKeepsNeitherCommandsNorResponses :
    ∀ e ∈ [at' .load 0#6, at' .addback 0#6, base],
      let s : State := { e with stream := [.present 0x40000000#32] }
      let s' : State := { e with stream := [.pins false true 0x40000000#32, .present 0#32], responses := [1#8] }
      s'.toEngine = s.toEngine ∧ s'.draws = s.draws ∧ s'.rstPin = s.rstPin ∧
        s'.cmdValidPin = s.cmdValidPin ∧ s'.cmdPin = s.cmdPin ∧ ∃ t, step s = .next t := by
  intro e he
  simp only [List.mem_cons, List.not_mem_nil, or_false] at he
  rcases he with rfl | rfl | rfl <;> exact ⟨rfl, rfl, rfl, rfl, rfl, _, rfl⟩

theorem witness_OverwritingReplacesTheDataState :
    (port (presentAll (hashblk base.b ++ [encInit]) ++ [.present 0#32])).seq =
      { phase := .idle, t := 0#6 } ∧
    (port (presentAll (hashblk base.b ++ [encInit]) ++ [.present 0#32])).stream =
      presentAll (hashblk base.b ++ [encInit]) ++ [.present 0#32] := ⟨rfl, rfl⟩

theorem witness_OutputsAreFunctionsOfTheState :
    ∃ t, (port [.present 0x40000000#32]).SeqLegal ∧ step (port [.present 0x40000000#32]) = .next t ∧
      (port [.present 0x40000000#32]).rspData = some 0#8 := ⟨_, rfl, rfl, by decide⟩

/-- The three programs, with a move left behind each. -/
theorem witness_CommandsTakeEffectInOrderAroundRun :
    (∀ p ∈ [[encWrb 63#6 255#8, encRun, encRdd 31#5], [encRun, encWrb 0#6 0#8, encRdd 0#5],
        [encInit, encRun, encRdd 0#5]],
      (port (presentAll p ++ [.pins true false 0#32])).seq = { phase := .idle, t := 0#6 } ∧
      (port (presentAll p ++ [.pins true false 0#32])).stream =
        presentAll p ++ [.pins true false 0#32]) := fun _ _ => ⟨rfl, rfl⟩

theorem witness_HashProcedureReturnsTheDigest :
    ∃ p, hashProgram [0x61#8, 0x62#8, 0x63#8] = .ok p ∧
      (port (presentAll p)).seq = { phase := .idle, t := 0#6 } ∧
      (port (presentAll p)).stream = presentAll p := ⟨_, rfl, rfl, rfl⟩

/-- R121: K = 8 is the smallest where a length fills a block exactly (n = 55), and 512 where the field does not fit (n = 56). -/
theorem witness_PaddingFillsWholeBlocks :
    (1 ≤ 8 ∧ (8 * 55 + 8 + 64) % 512 = 0) ∧ (1 ≤ 512 ∧ (8 * 56 + 512 + 64) % 512 = 0) := by decide

/-- Both sides of the ceiling of R125. -/
theorem witness_HostRefusesMessagesItCannotMeasure :
    2 ^ 61 ≤ (List.replicate (2 ^ 61) 0#8).length ∧
    (List.replicate (2 ^ 61 - 1) 0#8).length < 2 ^ 61 := by
  simp only [List.length_replicate]
  decide

/-- Keys of 63, 64 and 65 bytes. -/
theorem witness_HmacKeyIsNormalisedToSixtyFourBytes :
    (∃ k, hmacKey [0x6B#8, 0x65#8, 0x79#8] = .ok k) ∧
    (List.replicate 63 0#8).length < 64 ∧ (List.replicate 64 0#8).length = 64 ∧
    64 < (List.replicate 65 0#8).length ∧ ∃ d, sha256 (List.replicate 65 0#8) = .ok d :=
  ⟨⟨_, rfl⟩, by decide, by decide, by decide, ⟨_, rfl⟩⟩

/-- A call for 0 bytes and one for 32, and the first length that is refused. -/
theorem witness_HkdfOutputHasItsLengthAndIsAPrefix :
    (∃ okm, hkdfDerive 0 [] [] [] = .ok okm) ∧ (∃ okm, hkdfDerive (0 + 32) [] [] [] = .ok okm) ∧
    8160 < 8161 := ⟨⟨_, rfl⟩, ⟨_, rfl⟩, by decide⟩

end Sys2Proof.Tests
end

section
/-! PROOFS. The word operators of 00_scope.md R11 bit by bit. -/

namespace Sys2Proof.Machine

theorem getLsbD_shr (x : Word) (n i : Nat) :
    (shr x n).getLsbD i = (decide (i + n < 32) && x.getLsbD (i + n)) := by
  have hshift : (shr x n).getLsbD i = x.getLsbD (i + n) := by
    rw [shr, BitVec.getLsbD_ushiftRight, Nat.add_comm]
  by_cases h : i + n < 32
  · simp [hshift, h]
  · simp [hshift, h, BitVec.getLsbD_of_ge x (i + n) (by omega)]

/-- The two shifts of `rotr` never meet in a bit: the right shift gives the bits with `i + n < 32`, the
left shift the bits that wrapped around. -/
theorem getLsbD_rotr {n i : Nat} (x : Word) (hn : 0 < n) (hn' : n < 32) (hi : i < 32) :
    (rotr x n).getLsbD i = x.getLsbD ((i + n) % 32) := by
  have hshifts : (rotr x n).getLsbD i =
      (x.getLsbD (i + n) ^^ (!decide (i < 32 - n) && x.getLsbD (i - (32 - n)))) := by
    simp only [rotr, BitVec.getLsbD_xor, BitVec.getLsbD_ushiftRight, BitVec.getLsbD_shiftLeft, hi,
      decide_true, Bool.true_and, Nat.add_comm]
  by_cases h : i + n < 32
  · have hlow : i < 32 - n := by omega
    simp [hshifts, hlow, Nat.mod_eq_of_lt h]
  · have hhigh : ¬ i < 32 - n := by omega
    have hwrap : (i + n) % 32 = i - (32 - n) := by omega
    have hout : x.getLsbD (i + n) = false := BitVec.getLsbD_of_ge x (i + n) (by omega)
    simp [hshifts, hhigh, hwrap, hout]

/-- Settles O27: one bit-by-bit law for each of the two operators. -/
theorem rotateAndShiftMoveBits : Obligations.RotateAndShiftMoveBits := by
  unfold Obligations.RotateAndShiftMoveBits
  intro x n i hn hn' hi
  exact ⟨getLsbD_rotr x hn hn' hi, getLsbD_shr x n i⟩

end Sys2Proof.Machine
end

section
/-! PROOFS. Facts about the port, the event of a step and each instruction's effect that the
statements on the state share (10_state.md R20 to R36). -/

namespace Sys2Proof.Machine

/-! ## The command decoder's answers, read backwards (30_encoding.md R73) -/

/-- A word that decodes to a command is that command's encoding. -/
theorem encode_of_decodeCommand {c : Word} {i : Instr} (h : decodeCommand c = .instr i) :
    encode i = .command c := by
  have hc := c.isLt
  suffices ∃ e : Word, encode i = .command e ∧ e.toNat = c.toNat by
    obtain ⟨e, he, hn⟩ := this
    rw [he, BitVec.eq_of_toNat_eq hn]
  rcases decodeCommand_cases c with
    ⟨hd, hv⟩ | ⟨hd, hv⟩ | ⟨hd, hv⟩ | ⟨hd, hv⟩ | ⟨hd, hv⟩ | ⟨hd, -⟩ <;> rw [hd] at h <;> cases h
  · exact ⟨encNop, rfl, hv.symm⟩
  · exact ⟨encInit, rfl, hv.symm⟩
  · refine ⟨_, rfl, ?_⟩
    rw [encWrb_toNat, wrbAddrField_toNat, dataField_toNat]
    omega
  · exact ⟨encRun, rfl, hv.symm⟩
  · refine ⟨_, rfl, ?_⟩
    rw [encRdd_toNat, rddAddrField_toNat]
    omega

theorem eq_encInit_of_decodeCommand {c : Word} (h : decodeCommand c = .instr .init) : c = encInit :=
  (CodeWord.command.inj (encode_of_decodeCommand h)).symm

theorem eq_encWrb_of_decodeCommand {c : Word} {a : BitVec 6} {d : Byte}
    (h : decodeCommand c = .instr (.wrb a d)) : c = encWrb a d :=
  (CodeWord.command.inj (encode_of_decodeCommand h)).symm

theorem eq_encRdd_of_decodeCommand {c : Word} {a : BitVec 5}
    (h : decodeCommand c = .instr (.rdd a)) : c = encRdd a :=
  (CodeWord.command.inj (encode_of_decodeCommand h)).symm

theorem decodeCommand_encRun : decodeCommand encRun = .instr .run := by decide

theorem decodeCommand_encRdd : ∀ a : BitVec 5, decodeCommand (encRdd a) = .instr (.rdd a) := by
  decide

/-! ## What the port accepts (R86) -/

variable {s t : State} {i : Instr}

theorem accepted_of_reset (h : s.rstPin = true) : s.accepted = none := by
  simp [State.accepted, h]

theorem accepted_of_busy (h : s.seq.phase ≠ .idle) : s.accepted = none := by
  simp [State.accepted, State.cmdReady, h]

theorem accepted_of_idle (hr : s.rstPin = false) (hq : s.seq = Seq.idle) :
    s.accepted = if s.cmdValidPin then some s.cmdPin else none := by
  simp [State.accepted, State.cmdReady, hr, hq]

/-- The only move that asserts `rst` lasts one step, so it is over after it. -/
theorem heldStream_of_reset (h : s.rstPin = true) : heldStream s.stream = s.stream.tail := by
  cases hl : s.stream with
  | nil => rfl
  | cons m rest =>
    cases m with
    | present c => simp [rstPin_present s c rest hl] at h
    | pins r v c => rfl

/-! ## The step by its event (60_exceptions.md R144) -/

theorem step_reset (h : s.event = .reset) : step s = .next s.held.takeReset := by
  rw [step, h]

theorem step_perform (h : s.event = .perform i) : step s = exec i s.held := by
  rw [step, h]

theorem step_accept (h : s.event = .accept i) : step s = exec i s.consumed := by
  rw [step, h]

theorem step_illegal {c : Word} (h : s.event = .illegal c) :
    step s = .next (s.consumed.raiseIllegalCommand c) := by
  rw [step, h]

theorem step_quiet (h : s.event = .quiet) : step s = .next s.held := by
  rw [step, h]

/-- The event of an engine whose sequencer word is legal, with what the port accepts in it. -/
theorem event_cases (hl : s.SeqLegal) :
    (s.rstPin = true ∧ s.accepted = none ∧ s.event = .reset) ∨
    (∃ i, s.rstPin = false ∧ s.accepted = none ∧ i.agent = .engine ∧ s.event = .perform i) ∨
    (∃ c i, s.rstPin = false ∧ s.accepted = some c ∧ decodeCommand c = .instr i ∧
      s.event = .accept i) ∨
    (∃ c, s.rstPin = false ∧ s.accepted = some c ∧ decodeCommand c = .illegal c ∧
      s.event = .illegal c) ∨
    (s.rstPin = false ∧ s.accepted = none ∧ s.event = .quiet) := by
  cases hr : s.rstPin with
  | true => exact .inl ⟨rfl, accepted_of_reset hr, event_reset s hr⟩
  | false =>
    right
    by_cases hb : s.seq.phase = .idle
    · right
      have hq := Seq.eq_idle_of_legal s.seq hl hb
      have ha := accepted_of_idle hr hq
      have he := event_idle s hr hq
      cases hv : s.cmdValidPin with
      | false => exact .inr (.inr ⟨rfl, by simp [ha, hv], by simp [he, hv]⟩)
      | true =>
        rcases commandEvent_cases s.cmdPin with ⟨i, hd, -, hc⟩ | ⟨hd, hc⟩
        · exact .inl ⟨s.cmdPin, i, rfl, by simp [ha, hv], hd, by simp [he, hv, hc]⟩
        · exact .inr (.inl ⟨s.cmdPin, rfl, by simp [ha, hv], hd, by simp [he, hv, hc]⟩)
    · left
      have he := event_busy s hr hb
      rcases Seq.busy_cases s.seq hl hb with
        ⟨-, hp⟩ | ⟨k, -, -, hp⟩ | ⟨-, hp⟩ | ⟨k, -, hp⟩ | ⟨-, hp⟩ <;>
        exact ⟨_, rfl, accepted_of_busy hb, rfl, he.trans hp⟩

/-- The step in which an idle engine accepts a legal command runs it (R86). -/
theorem step_of_accepted {c : Word} (hq : s.seq = Seq.idle) (ha : s.accepted = some c)
    (hd : decodeCommand c = .instr i) : step s = exec i s.consumed := by
  obtain ⟨hv, -, hr, rfl⟩ := (accepted_eq_some s c).1 ha
  exact step_accept (by simp [event_idle s hr hq, hv, commandEvent, hd])

/-! ## What every instruction's effect has in common -/

theorem exec_exp_eq_next {k : BitVec 6} (h : exec (.exp k) s = .next t) :
    16 ≤ k.toNat ∧
      t = (s.setW (wordIndex k) (expandWord s.w (wordIndex k))).setSeq (Seq.afterExpand k) := by
  by_cases hk : 16 ≤ k.toNat
  · rw [exec_exp k s hk] at h
    cases h
    exact ⟨hk, rfl⟩
  · rw [exec_exp_stuck k s (by omega)] at h
    cases h

/-- No instruction writes ERR, and none reads it (10_state.md R27). -/
theorem exec_withErr (e : Bool) (h : exec i s = .next t) :
    t.err = s.err ∧ exec i { s with err := e } = .next { t with err := e } := by
  cases i with
  | exp k =>
    obtain ⟨hk, rfl⟩ := exec_exp_eq_next h
    exact ⟨rfl, exec_exp k _ hk⟩
  | _ => cases h; exact ⟨by simp, rfl⟩

/-- The byte an instruction returns joins the responses, and nothing else does (R84). -/
theorem exec_responses (h : exec i s = .next t) :
    t.responses = s.responses ++ (s.responseOf i).toList := by
  cases i with
  | exp k =>
    obtain ⟨-, rfl⟩ := exec_exp_eq_next h
    simp [State.responseOf]
  | _ => cases h; simp [State.responseOf]

/-- No instruction reads the host's side (R28). -/
theorem exec_withHostSide (p : HostSide) (h : exec i s = .next t) :
    ∃ p', exec i { s with toHostSide := p } = .next { t with toHostSide := p' } := by
  cases i with
  | exp k =>
    obtain ⟨hk, rfl⟩ := exec_exp_eq_next h
    exact ⟨p, exec_exp k _ hk⟩
  | _ => cases h; exact ⟨_, rfl⟩

/-- Only RDD returns a byte (R84). -/
theorem responseOf_eq_some {v : Byte} :
    s.responseOf i = some v ↔ ∃ a, i = .rdd a ∧ v = s.readDigest (digestAddr a) := by
  cases i <;> simp [State.responseOf, eq_comm]

theorem responseOf_of_engine (h : i.agent = .engine) : s.responseOf i = none := by
  cases i with
  | rdd a => cases h
  | _ => rfl

end Sys2Proof.Machine
end

section
/-! PROOFS. The walk of the sequencer (10_state.md R26, 30_encoding.md R67): legal words step to
legal words, which words a run from reset reaches, and how long a busy engine stays busy. -/

namespace Sys2Proof.Machine

/-! ## The next-state function on legal words -/

@[simp] theorem Seq.legal_idle : Seq.idle.legal = true := rfl
@[simp] theorem Seq.legal_load : Seq.load.legal = true := rfl
@[simp] theorem Seq.legal_firstExpand : Seq.firstExpand.legal = true := rfl
@[simp] theorem Seq.legal_firstRound : Seq.firstRound.legal = true := rfl

theorem Seq.legal_afterExpand {k : BitVec 6} (hk : 16 ≤ k.toNat) :
    (Seq.afterExpand k).legal = true := by
  by_cases h : k.toNat < 63
  · have hlow : 16 ≤ (k + 1#6).toNat := by rw [toNat_succ_of_lt k h]; omega
    simpa [Seq.afterExpand, h, Seq.legal] using hlow
  · simp [Seq.afterExpand, h, Seq.legal, Seq.initv]

theorem Seq.legal_afterRound (k : BitVec 6) : (Seq.afterRound k).legal = true := by
  by_cases h : k.toNat < 63
  · simp [Seq.afterRound, h, Seq.legal]
  · simp [Seq.afterRound, h, Seq.legal, Seq.addback]

/-- R26's list of the legal words. -/
theorem Seq.legal_iff (q : Seq) : q.legal = true ↔
    q = Seq.idle ∨ q = Seq.load ∨ (q.phase = .expand ∧ 16 ≤ q.t.toNat) ∨ q = Seq.initv ∨
      q.phase = .round ∨ q = Seq.addback := by
  obtain ⟨p, k⟩ := q
  cases p <;> simp [Seq.legal, Seq.idle, Seq.load, Seq.initv, Seq.addback]

theorem Seq.stepsToIdle_afterExpand {k : BitVec 6} (hk : 16 ≤ k.toNat) :
    (Seq.afterExpand k).stepsToIdle + 1 = 130 - k.toNat := by
  have hlt := k.isLt
  by_cases h : k.toNat < 63
  · simp only [Seq.afterExpand, h, if_true, Seq.stepsToIdle, toNat_succ_of_lt k h]
    omega
  · simp only [Seq.afterExpand, h, if_false, Seq.stepsToIdle, Seq.initv]
    omega

theorem Seq.stepsToIdle_afterRound (k : BitVec 6) :
    (Seq.afterRound k).stepsToIdle + 1 = 65 - k.toNat := by
  have hlt := k.isLt
  by_cases h : k.toNat < 63
  · simp only [Seq.afterRound, h, if_true, Seq.stepsToIdle, toNat_succ_of_lt k h]
    omega
  · simp only [Seq.afterRound, h, if_false, Seq.stepsToIdle, Seq.addback]
    omega

/-- Each engine step brings the sequencer one step nearer to idle (R67, R169). -/
theorem Seq.stepsToIdle_next {q : Seq} (hl : q.legal = true) (hb : q.phase ≠ .idle) :
    q.next.stepsToIdle + 1 = q.stepsToIdle := by
  rcases Seq.busy_cases q hl hb with
    ⟨rfl, -⟩ | ⟨k, rfl, hk, -⟩ | ⟨rfl, -⟩ | ⟨k, rfl, -⟩ | ⟨rfl, -⟩
  · rfl
  · exact Seq.stepsToIdle_afterExpand hk
  · rfl
  · exact Seq.stepsToIdle_afterRound k
  · rfl

theorem Seq.busy_of_stepsToIdle_pos {q : Seq} (h : 0 < q.stepsToIdle) : q.phase ≠ .idle := by
  intro hp
  simp [Seq.stepsToIdle, hp] at h

/-! ## Steps keep the sequencer word legal -/

variable {s t : State}

/-- A command either leaves the sequencer word or is RUN (40_host_commands.md R87). -/
theorem exec_host {i : Instr} (s : State) (h : i.agent = .host) :
    ∃ t, exec i s = .next t ∧ (t.seq = s.seq ∨ t.seq = Seq.load) := by
  cases i with
  | nop => exact ⟨_, exec_nop s, .inl rfl⟩
  | init => exact ⟨_, exec_init s, .inl rfl⟩
  | wrb a d => exact ⟨_, exec_wrb a d s, .inl rfl⟩
  | run => exact ⟨_, exec_run s, .inr rfl⟩
  | rdd a => exact ⟨_, exec_rdd a s, .inl rfl⟩
  | _ => cases h

/-- A step of a legal state answers a legal state. -/
theorem step_seqLegal (hl : s.SeqLegal) : ∃ t, step s = .next t ∧ t.SeqLegal := by
  rcases step_cases s hl with
    ⟨-, hs⟩ | ⟨-, -, hs⟩ | ⟨k, -, -, hk, hs⟩ | ⟨-, -, hs⟩ | ⟨k, -, -, hs⟩ | ⟨-, -, hs⟩ |
    ⟨i, -, -, -, -, hi, hs⟩ | ⟨-, -, -, -, hs⟩ | ⟨-, -, -, hs⟩
  · exact ⟨_, hs, Seq.legal_idle⟩
  · exact ⟨_, hs, Seq.legal_firstExpand⟩
  · exact ⟨_, hs, Seq.legal_afterExpand hk⟩
  · exact ⟨_, hs, Seq.legal_firstRound⟩
  · exact ⟨_, hs, Seq.legal_afterRound k⟩
  · exact ⟨_, hs, Seq.legal_idle⟩
  · obtain ⟨t, ht, hkeep | hload⟩ := exec_host s.consumed hi
    · exact ⟨t, hs.trans ht, (congrArg Seq.legal hkeep).trans hl⟩
    · exact ⟨t, hs.trans ht, congrArg Seq.legal hload⟩
  · exact ⟨_, hs, hl⟩
  · exact ⟨_, hs, hl⟩

/-- Settles O34, by the nine ways a step from a legal word can go. -/
theorem legalSequencerAlwaysStepsAndStaysLegal :
    Obligations.LegalSequencerAlwaysStepsAndStaysLegal := by
  unfold Obligations.LegalSequencerAlwaysStepsAndStaysLegal
  exact fun s hl => step_seqLegal hl

/-- Settles O35. -/
theorem sequencerIsLegalAtReset : Obligations.SequencerIsLegalAtReset := Seq.legal_idle

/-- What every step from a state that meets `P` keeps, a run keeps. -/
theorem run_invariant {P : State → Prop} (hstep : ∀ {s t}, P s → step s = .next t → P t) {n : Nat}
    (hs : P s) (h : run n s = .next t) : P t := by
  induction n generalizing s with
  | zero => cases h; exact hs
  | succ n ih =>
    cases hu : step s with
    | next u => exact ih (hstep hs hu) (run_succ hu ▸ h)
    | fault r => rw [run, hu] at h; cases h
    | refused r => rw [run, hu] at h; cases h

theorem seqLegal_of_step (hl : s.SeqLegal) (ht : step s = .next t) : t.SeqLegal := by
  obtain ⟨u, hu, hul⟩ := step_seqLegal hl
  obtain rfl := Host.Outcome.next.inj (hu.symm.trans ht)
  exact hul

theorem run_seqLegal {n : Nat} (hl : s.SeqLegal) (h : run n s = .next t) : t.SeqLegal :=
  run_invariant (P := State.SeqLegal) seqLegal_of_step hl h

/-! ## The engine's own steps -/

/-- A step of a busy engine without reset goes to the next sequencer word and holds the port (R67,
R86). -/
theorem step_busy (hl : s.SeqLegal) (hr : s.rstPin = false) (hb : s.seq.phase ≠ .idle) :
    ∃ t, step s = .next t ∧ t.seq = s.seq.next ∧ t.stream = heldStream s.stream := by
  have he := event_busy s hr hb
  rcases Seq.busy_cases s.seq hl hb with
    ⟨hq, hp⟩ | ⟨k, hq, hk, hp⟩ | ⟨hq, hp⟩ | ⟨k, hq, hp⟩ | ⟨hq, hp⟩ <;>
    rw [step_perform (he.trans hp), hq]
  · exact ⟨_, exec_ldw _, rfl, by simp⟩
  · exact ⟨_, exec_exp k _ hk, rfl, by simp⟩
  · exact ⟨_, exec_ldv _, rfl, by simp⟩
  · exact ⟨_, exec_rnd k _, rfl, by simp⟩
  · exact ⟨_, exec_add _, rfl, by simp⟩

/-! ## Reachable words -/

/-- From reset with one RUN on the port, some number of steps leads to `q`, the RUN accepted. -/
def Seq.ReachedByRun (q : Seq) : Prop :=
  ∃ n s, run n { State.reset with stream := [.present encRun] } = .next s ∧ s.seq = q ∧
    s.stream = []

theorem Seq.reachedByRun_load : Seq.load.ReachedByRun := by
  have hs := step_of_accepted (s := { State.reset with stream := [.present encRun] }) (i := .run)
    rfl rfl decodeCommand_encRun
  exact ⟨1, _, run_succ (hs.trans (exec_run _)), rfl, rfl⟩

theorem Seq.ReachedByRun.next {q : Seq} (h : q.ReachedByRun) (hl : q.legal = true)
    (hb : q.phase ≠ .idle) : q.next.ReachedByRun := by
  obtain ⟨n, s, hrun, rfl, hstream⟩ := h
  obtain ⟨t, hst, hq, ht⟩ := step_busy hl (rstPin_nil s hstream) hb
  exact ⟨n + 1, t, by rw [run_add 1 hrun, run_succ hst, run_zero], hq, by rw [ht, hstream]; rfl⟩

theorem Seq.next_expand {k : BitVec 6} (h : k.toNat < 63) :
    Seq.next { phase := .expand, t := k } = { phase := .expand, t := k + 1#6 } := by
  simp [Seq.next, Seq.afterExpand, h]

theorem Seq.next_round {k : BitVec 6} (h : k.toNat < 63) :
    Seq.next { phase := .round, t := k } = { phase := .round, t := k + 1#6 } := by
  simp [Seq.next, Seq.afterRound, h]

theorem Seq.reachedByRun_expand (j : Nat) (hj : j < 48) :
    Seq.ReachedByRun { phase := .expand, t := BitVec.ofNat 6 (16 + j) } := by
  induction j with
  | zero => exact Seq.reachedByRun_load.next rfl nofun
  | succ j ih =>
    have hval : (BitVec.ofNat 6 (16 + j)).toNat = 16 + j := by
      rw [BitVec.toNat_ofNat]; omega
    have hnext := (ih (by omega)).next (by simp only [Seq.legal, hval]; simp) nofun
    rw [Seq.next_expand (by omega)] at hnext
    rwa [← Nat.add_assoc, BitVec.ofNat_add]

theorem Seq.reachedByRun_initv : Seq.initv.ReachedByRun :=
  (Seq.reachedByRun_expand 47 (by omega)).next rfl nofun

theorem Seq.reachedByRun_round (j : Nat) (hj : j < 64) :
    Seq.ReachedByRun { phase := .round, t := BitVec.ofNat 6 j } := by
  induction j with
  | zero => exact Seq.reachedByRun_initv.next rfl nofun
  | succ j ih =>
    have hval : (BitVec.ofNat 6 j).toNat = j := by
      rw [BitVec.toNat_ofNat]; omega
    have hnext := (ih (by omega)).next rfl nofun
    rw [Seq.next_round (by omega)] at hnext
    rwa [BitVec.ofNat_add]

theorem Seq.reachedByRun_addback : Seq.addback.ReachedByRun :=
  (Seq.reachedByRun_round 63 (by omega)).next rfl nofun

/-- Every legal word is reached: idle after the add-back, the others on the way to it. -/
theorem Seq.reachedByRun_of_legal {q : Seq} (h : q.legal = true) : q.ReachedByRun := by
  rcases (Seq.legal_iff q).1 h with rfl | rfl | ⟨hp, hk⟩ | rfl | hp | rfl
  · exact Seq.reachedByRun_addback.next rfl nofun
  · exact Seq.reachedByRun_load
  · obtain ⟨p, k⟩ := q
    cases hp
    have hlt := k.isLt
    have hreach := Seq.reachedByRun_expand (k.toNat - 16) (by omega)
    rwa [Nat.add_sub_cancel' hk, BitVec.ofNat_toNat, BitVec.setWidth_eq] at hreach
  · exact Seq.reachedByRun_initv
  · obtain ⟨p, k⟩ := q
    cases hp
    have hreach := Seq.reachedByRun_round k.toNat k.isLt
    rwa [BitVec.ofNat_toNat, BitVec.setWidth_eq] at hreach
  · exact Seq.reachedByRun_addback

theorem Seq.legal_iff_reachable (q : Seq) :
    (∃ (l : List HostMove) (n : Nat) (s : State),
      run n { State.reset with stream := l } = .next s ∧ s.seq = q) ↔ q.legal = true := by
  constructor
  · rintro ⟨l, n, s, hrun, rfl⟩
    exact run_seqLegal (s := { State.reset with stream := l }) Seq.legal_idle hrun
  · intro h
    obtain ⟨n, s, hrun, hq, -⟩ := Seq.reachedByRun_of_legal h
    exact ⟨_, n, s, hrun, hq⟩

/-! ## How many words are legal -/

/-- The legal words: R26's list, phase by phase. -/
def Seq.legalList : List Seq :=
  [Seq.idle, Seq.load, Seq.initv, Seq.addback] ++
  ((List.finRange 64).filter (16 ≤ ·.val)).map
    (fun k => { phase := .expand, t := BitVec.ofFin k }) ++
  (List.finRange 64).map (fun k => { phase := .round, t := BitVec.ofFin k })

theorem Seq.mem_legalList (q : Seq) : q ∈ Seq.legalList ↔ q.legal = true := by
  obtain ⟨p, k⟩ := q
  have hindex : (∃ a : Fin 64, 16 ≤ a.val ∧ BitVec.ofFin a = k) ↔ 16 ≤ k.toNat :=
    ⟨fun ⟨_, ha, hk⟩ => hk ▸ ha, fun h => ⟨k.toFin, h, rfl⟩⟩
  have hround : ∃ a : Fin 64, BitVec.ofFin a = k := ⟨k.toFin, rfl⟩
  cases p <;>
    simp [Seq.legalList, Seq.legal, Seq.idle, Seq.load, Seq.initv, Seq.addback, hindex, hround]

theorem Seq.nodup_legalList : Seq.legalList.Nodup := by
  have hinj (p : Phase) : Function.Injective fun k : Fin 64 => (⟨p, BitVec.ofFin k⟩ : Seq) :=
    fun _ _ h => BitVec.ofFin.inj (Seq.mk.inj h).2
  have hexpand := ((List.nodup_finRange 64).filter (16 ≤ ·.val)).map (hinj .expand)
  have hround := (List.nodup_finRange 64).map (hinj .round)
  simpa [Seq.legalList, List.nodup_append, Seq.idle, Seq.load, Seq.initv, Seq.addback]
    using ⟨hexpand, hround⟩

theorem Seq.ncard_legal : Set.ncard {q : Seq | q.legal = true} = 116 := by
  have hset : {q : Seq | q.legal = true} = ↑Seq.legalList.toFinset := by
    ext q
    simp [Seq.mem_legalList]
  rw [hset, Set.ncard_coe_finset, List.toFinset_card_of_nodup Seq.nodup_legalList]
  rfl

/-- Settles O37: soundness by the invariant of O34, completeness by the walk of one RUN. -/
theorem exactlyTheListedSequencerWordsAreReachable :
    Obligations.ExactlyTheListedSequencerWordsAreReachable := by
  unfold Obligations.ExactlyTheListedSequencerWordsAreReachable
  refine ⟨fun q => (Seq.legal_iff_reachable q).trans (Seq.legal_iff q), Seq.ncard_legal,
    step_stuck, fun s => ⟨?_, ?_⟩⟩ <;> simp [State.busy]

end Sys2Proof.Machine
end

section
/-! PROOFS. Reset and the state after it (10_state.md R33 to R36), and what one step reads, writes
and returns (R20 to R23, R27, R28, R32). -/

namespace Sys2Proof.Machine

/-! ## Reset -/

/-- Settles O8: reset's own step, from whatever sequencer word. -/
theorem resetTakesEffectInAnyState : Obligations.ResetTakesEffectInAnyState := by
  unfold Obligations.ResetTakesEffectInAnyState
  intro s h
  refine ⟨accepted_of_reset h, _, step_reset (event_reset s h), rfl, rfl, fun q => ?_⟩
  exact ⟨_, step_reset (event_reset { s with seq := q } h), rfl, rfl, rfl, rfl⟩

/-- Settles O9: the draw of reset's own step. -/
theorem resetDrawsTheDataStateAnew : Obligations.ResetDrawsTheDataStateAnew := by
  unfold Obligations.ResetDrawsTheDataStateAnew
  intro s h
  exact ⟨s.held.takeReset, step_reset (event_reset s h), State.takeReset_toDataState _,
    heldStream_of_reset h, rfl, rfl⟩

/-- Settles O10. -/
theorem resetStateIsIdleAndReady : Obligations.ResetStateIsIdleAndReady :=
  ⟨rfl, rfl, rfl, rfl, rfl⟩

/-- Settles O41: in phase IDLE the invariant asks nothing. -/
theorem compressionIsCorrectAtReset : Obligations.CompressionIsCorrectAtReset :=
  ⟨sequencerIsLegalAtReset, trivial⟩

/-! ## Who writes which register -/

variable {s t : State} {i : Instr}

/-- A write of one byte that changes byte `j` is a write to `j`. -/
theorem writeBlock_changes {j k : Fin 64} {v : Byte}
    (h : (s.writeBlock k v).readBlock j ≠ s.readBlock j) : j = k := by
  by_contra hne
  exact h (readBlock_writeBlock_other s k j v hne)

/-- The effect of a command on the registers: INIT may change H, WRB one byte of B, and nothing else
changes but seq (R20 to R23). -/
theorem exec_host_writes (h : i.agent = .host) (ht : exec i s = .next t) :
    (t.h ≠ s.h → i = .init) ∧ t.x = s.x ∧ t.w = s.w ∧
    (∀ j, t.readBlock j ≠ s.readBlock j →
      ∃ a d, i = .wrb a d ∧ blockAddr a = j ∧ t.readBlock j = d) ∧
    t.draws = s.draws := by
  cases i with
  | init => cases ht; exact ⟨fun _ => rfl, rfl, rfl, fun _ => (absurd rfl ·), rfl⟩
  | wrb a d =>
    cases ht
    refine ⟨(absurd rfl ·), rfl, rfl, fun j hj => ?_, rfl⟩
    obtain rfl := writeBlock_changes hj
    exact ⟨a, d, rfl, rfl, readBlock_writeBlock_same s _ d⟩
  | nop | run | rdd a => cases ht; exact ⟨(absurd rfl ·), rfl, rfl, fun _ => (absurd rfl ·), rfl⟩
  | _ => cases h

/-- Settles O45, by the nine ways a step from a legal word can go. -/
theorem eachRegisterHasOnlyItsWriters : Obligations.EachRegisterHasOnlyItsWriters := by
  unfold Obligations.EachRegisterHasOnlyItsWriters
  intro s t hl hr ht
  have hnext {u : State} (hs : step s = .next u) : u = t := Host.Outcome.next.inj (hs.symm.trans ht)
  rcases step_cases s hl with
    ⟨hr', -⟩ | ⟨-, hq, hs⟩ | ⟨k, -, hq, -, hs⟩ | ⟨-, hq, hs⟩ | ⟨k, -, hq, hs⟩ | ⟨-, hq, hs⟩ |
    ⟨i, -, hq, hv, hd, hi, hs⟩ | ⟨-, -, -, -, hs⟩ | ⟨-, -, -, hs⟩
  · simp [hr] at hr'
  · obtain rfl := hnext hs
    simp [hq, State.readBlock]
  · obtain rfl := hnext hs
    simp [hq, State.readBlock]
  · obtain rfl := hnext hs
    simp [hq, State.readBlock]
  · obtain rfl := hnext hs
    simp [hq, State.readBlock]
  · obtain rfl := hnext hs
    simp [hq, State.readBlock]
  · have ha : s.accepted = some s.cmdPin := by simp [accepted_of_idle hr hq, hv]
    obtain ⟨hh, hx, hw, hb, hdraws⟩ := exec_host_writes hi (hs.symm.trans ht)
    refine ⟨fun hne => .inl ?_, (absurd hx ·), (absurd hw ·), fun j hj => ?_, hdraws⟩
    · obtain rfl := hh hne
      rw [ha, eq_encInit_of_decodeCommand hd, encInit]
    · obtain ⟨a, d, rfl, haddr, hread⟩ := hb j hj
      exact ⟨a, d, by rw [ha, eq_encWrb_of_decodeCommand hd], haddr, hread⟩
  · obtain rfl := hnext hs
    simp [State.readBlock]
  · obtain rfl := hnext hs
    simp [State.readBlock]

/-! ## ERR (R27) -/

/-- ERR in the next state: an accepted illegal word sets it, reset clears it, every other step keeps
it. -/
theorem step_err (hl : s.SeqLegal) (ht : step s = .next t) :
    t.err = true ↔ s.rstPin = false ∧
      (s.err = true ∨ ∃ c, s.accepted = some c ∧ decodeCommand c = .illegal c) := by
  rcases event_cases hl with
    ⟨hr, ha, he⟩ | ⟨i, hr, ha, -, he⟩ | ⟨c, i, hr, ha, hd, he⟩ | ⟨c, hr, ha, hd, he⟩ | ⟨hr, ha, he⟩
  · cases (step_reset he).symm.trans ht
    simp [hr]
  · have herr := (exec_withErr false ((step_perform he).symm.trans ht)).1
    simp [herr, hr, ha]
  · have herr := (exec_withErr false ((step_accept he).symm.trans ht)).1
    simp [herr, hr, ha, hd]
  · cases (step_illegal he).symm.trans ht
    simp [hr, ha, hd]
  · cases (step_quiet he).symm.trans ht
    simp [hr, ha]

/-- A step from a state that differs in ERR alone answers a state that differs in ERR alone. -/
theorem step_withErr (e : Bool) (ht : step s = .next t) :
    ∃ e', step { s with err := e } = .next { t with err := e' } := by
  have hevent {v : Event} (he : s.event = v) : ({ s with err := e } : State).event = v := he
  cases he : s.event with
  | reset =>
    cases (step_reset he).symm.trans ht
    exact ⟨false, step_reset (hevent he)⟩
  | perform i =>
    exact ⟨e, (step_perform (hevent he)).trans
      (exec_withErr e ((step_perform he).symm.trans ht)).2⟩
  | accept i =>
    exact ⟨e, (step_accept (hevent he)).trans
      (exec_withErr e ((step_accept he).symm.trans ht)).2⟩
  | illegal c =>
    cases (step_illegal he).symm.trans ht
    exact ⟨true, step_illegal (hevent he)⟩
  | quiet =>
    cases (step_quiet he).symm.trans ht
    exact ⟨e, step_quiet (hevent he)⟩
  | stuck => rw [step, he] at ht; cases ht

/-- Settles O46, by the event of the step. -/
theorem errIsStickyAndNothingDependsOnIt : Obligations.ErrIsStickyAndNothingDependsOnIt := by
  unfold Obligations.ErrIsStickyAndNothingDependsOnIt
  exact ⟨fun _ _ hl ht => step_err hl ht, fun _ _ e ht => step_withErr e ht,
    fun s => by simp [State.busy]⟩

/-! ## The output pins (R32) -/

/-- A byte is on `rsp_data` exactly when an RDD is accepted, and it is RDD's byte. -/
theorem rspData_eq_some {v : Byte} (hl : s.SeqLegal) : s.rspData = some v ↔
    ∃ a, s.accepted = some (encRdd a) ∧ v = s.readDigest (digestAddr a) := by
  rcases event_cases hl with
    ⟨-, ha, he⟩ | ⟨i, -, ha, -, he⟩ | ⟨c, i, -, ha, hd, he⟩ | ⟨c, -, ha, hd, he⟩ | ⟨-, ha, he⟩
  · simp [State.rspData, ha, he]
  · simp [State.rspData, ha, he]
  · rw [State.rspData, he, ha]
    refine responseOf_eq_some.trans (exists_congr fun a => and_congr_left fun _ => ?_)
    constructor
    · rintro rfl
      rw [eq_encRdd_of_decodeCommand hd]
    · rintro ⟨⟩
      exact Decoded.instr.inj (hd.symm.trans (decodeCommand_encRdd a))
  · have hne : ∀ a, c ≠ encRdd a := by
      rintro a rfl
      cases hd.symm.trans (decodeCommand_encRdd a)
    simp [State.rspData, ha, he, hne]
  · simp [State.rspData, ha, he]

/-- A step adds to the responses exactly what `rsp_data` carries in it. -/
theorem step_responses (hl : s.SeqLegal) (ht : step s = .next t) :
    t.responses = s.responses ++ s.rspData.toList := by
  rcases event_cases hl with
    ⟨-, -, he⟩ | ⟨i, -, -, hi, he⟩ | ⟨c, i, -, -, -, he⟩ | ⟨c, -, -, -, he⟩ | ⟨-, -, he⟩
  · cases (step_reset he).symm.trans ht
    simp [State.rspData, he]
  · have hresp := exec_responses ((step_perform he).symm.trans ht)
    simpa [State.rspData, he, responseOf_of_engine hi] using hresp
  · rw [State.rspData, he]
    exact exec_responses (s := s.consumed) ((step_accept he).symm.trans ht)
  · cases (step_illegal he).symm.trans ht
    simp [State.rspData, he]
  · cases (step_quiet he).symm.trans ht
    simp [State.rspData, he]

/-- Settles O49, by the event of the step. -/
theorem outputsAreFunctionsOfTheState : Obligations.OutputsAreFunctionsOfTheState := by
  unfold Obligations.OutputsAreFunctionsOfTheState
  exact ⟨fun s => ⟨by simp [State.cmdReady], busy_eq_not_cmdReady s, rfl⟩,
    fun _ _ hl => rspData_eq_some hl, fun _ _ hl ht => step_responses hl ht⟩

/-! ## The engine and its host (R28) -/

/-- The coming event is a function of the engine and the levels of the pins. -/
theorem event_withHostSide {p : HostSide}
    (hr : ({ s with toHostSide := p } : State).rstPin = s.rstPin)
    (hv : ({ s with toHostSide := p } : State).cmdValidPin = s.cmdValidPin)
    (hc : ({ s with toHostSide := p } : State).cmdPin = s.cmdPin) :
    ({ s with toHostSide := p } : State).event = s.event := by
  have ha : ({ s with toHostSide := p } : State).accepted = s.accepted := by
    rw [State.accepted, State.accepted, hr, hv, hc]
    rfl
  rw [State.event, State.event, hr, ha]
  rfl

/-- Where the coming event is the same, a step from a state that differs in the host's side alone
answers a state that differs in the host's side alone. -/
theorem step_withHostSide {p : HostSide}
    (hevent : ({ s with toHostSide := p } : State).event = s.event) (ht : step s = .next t) :
    ∃ p', step { s with toHostSide := p } = .next { t with toHostSide := p' } := by
  cases he : s.event with
  | reset =>
    cases (step_reset he).symm.trans ht
    exact ⟨_, step_reset (hevent.trans he)⟩
  | perform i =>
    obtain ⟨p', hp⟩ := exec_withHostSide (s := s.held) ⟨heldStream p.stream, p.responses⟩
      ((step_perform he).symm.trans ht)
    exact ⟨p', (step_perform (hevent.trans he)).trans hp⟩
  | accept i =>
    obtain ⟨p', hp⟩ := exec_withHostSide (s := s.consumed) ⟨p.stream.tail, p.responses⟩
      ((step_accept he).symm.trans ht)
    exact ⟨p', (step_accept (hevent.trans he)).trans hp⟩
  | illegal c =>
    cases (step_illegal he).symm.trans ht
    exact ⟨_, step_illegal (hevent.trans he)⟩
  | quiet =>
    cases (step_quiet he).symm.trans ht
    exact ⟨_, step_quiet (hevent.trans he)⟩
  | stuck => rw [step, he] at ht; cases ht

/-- Settles O56: the second state is the first with another host's side. -/
theorem engineKeepsNeitherCommandsNorResponses :
    Obligations.EngineKeepsNeitherCommandsNorResponses := by
  unfold Obligations.EngineKeepsNeitherCommandsNorResponses
  refine ⟨fun s s' t hE hdraws hr hv hc ht => ?_, fun a s => ⟨_, exec_rdd a s, rfl⟩⟩
  obtain ⟨engine, p, draws⟩ := s'
  obtain rfl : engine = s.toEngine := hE
  obtain rfl : draws = s.draws := hdraws
  have hevent := event_withHostSide hr hv hc
  obtain ⟨p', ht'⟩ := step_withHostSide hevent ht
  refine ⟨?_, _, ht', rfl, rfl⟩
  rw [State.rspData, State.rspData, hevent]
  rfl

end Sys2Proof.Machine
end

section
/-! PROOFS. The values W and x held before a RUN never reach H (10_state.md R22): a simulation
between two engines that differ in W and x, which agree on every word of W and x by the time it is
read. -/

namespace Sys2Proof.Machine

/-- `s` with other working variables and another message schedule. -/
def State.withXW (s : State) (x : Vector Word 8) (w : Vector Word 64) : State :=
  { s with x := x, w := w }

/-- Two schedules hold the same words below `n`. -/
def AgreeBelow (n : Nat) (w w' : Vector Word 64) : Prop :=
  ∀ (i : Nat) (hi : i < 64), i < n → w'[i] = w[i]

/-- How far `x` and `w` agree with those of `s` in each phase: on the words of W written so far by
this RUN, and on x from the rounds on. -/
def State.WrittenAgrees (s : State) (x : Vector Word 8) (w : Vector Word 64) : Prop :=
  match s.seq.phase with
  | .idle => True
  | .load => True
  | .expand => AgreeBelow s.seq.t.toNat s.w w
  | .initv => w = s.w
  | .round => w = s.w ∧ x = s.x
  | .addback => x = s.x

section AgreeBelow

variable {w w' : Vector Word 64}

theorem agreeBelow_loadWords (b : Vector Byte 64) (w w' : Vector Word 64) :
    AgreeBelow 16 (loadWords b w) (loadWords b w') := by
  intro i hi h
  rw [loadWords_low b w i h, loadWords_low b w' i h]

theorem AgreeBelow.eq (h : AgreeBelow 64 w w') : w' = w :=
  Vector.ext fun i hi => h i hi hi

/-- EXP's word is the same in both, so they agree on one word more. -/
theorem AgreeBelow.expand {k : Fin 64} (hk : 16 ≤ k.val) (h : AgreeBelow k.val w w') :
    AgreeBelow (k.val + 1) (w.set k.val (expandWord w k)) (w'.set k.val (expandWord w' k)) := by
  intro i hi hlt
  have hword : expandWord w' k = expandWord w k :=
    expandWord_congr w' w k hk fun i hik hi => h i hi hik
  by_cases hik : k.val = i
  · subst hik
    rw [Vector.getElem_set_self, Vector.getElem_set_self, hword]
  · rw [Vector.getElem_set_ne _ _ hik, Vector.getElem_set_ne _ _ hik]
    exact h i hi (by omega)

end AgreeBelow

variable {s t : State} {x : Vector Word 8} {w : Vector Word 64}

/-- Past EXP k the agreement on the words up to k is what the next phase asks. -/
theorem writtenAgrees_afterExpand {k : BitVec 6} (h : AgreeBelow (k.toNat + 1) s.w w) :
    (s.setSeq (Seq.afterExpand k)).WrittenAgrees x w := by
  by_cases hk : k.toNat < 63
  · simpa [State.WrittenAgrees, Seq.afterExpand, hk, toNat_succ_of_lt k hk] using h
  · have hlast : k.toNat + 1 = 64 := by have := k.isLt; omega
    rw [hlast] at h
    simpa [State.WrittenAgrees, Seq.afterExpand, hk] using h.eq

theorem writtenAgrees_afterRound (k : BitVec 6) :
    (s.setSeq (Seq.afterRound k)).WrittenAgrees s.x s.w := by
  by_cases hk : k.toNat < 63 <;> simp [State.WrittenAgrees, Seq.afterRound, hk]

/-- One engine step of two engines that differ in W and x alone: they still do, and agree on what is
written. -/
theorem step_withXW (hl : s.SeqLegal) (hr : s.rstPin = false) (hb : s.seq.phase ≠ .idle)
    (h : s.WrittenAgrees x w) (ht : step s = .next t) :
    ∃ x' w', step (s.withXW x w) = .next (t.withXW x' w') ∧ t.WrittenAgrees x' w' := by
  have he := event_busy s hr hb
  have hstep {i : Instr} (hp : engineEvent s.seq = .perform i) :
      exec i s.held = .next t ∧ step (s.withXW x w) = exec i (s.withXW x w).held :=
    ⟨(step_perform (he.trans hp)).symm.trans ht,
      step_perform (s := s.withXW x w) (he.trans hp)⟩
  rcases Seq.busy_cases s.seq hl hb with
    ⟨hq, hp⟩ | ⟨k, hq, hk, hp⟩ | ⟨hq, hp⟩ | ⟨k, hq, hp⟩ | ⟨hq, hp⟩ <;>
    obtain ⟨ht, hs'⟩ := hstep hp <;> rw [hs'] <;> simp only [State.WrittenAgrees, hq] at h
  · obtain rfl := Host.Outcome.next.inj ((exec_ldw _).symm.trans ht)
    exact ⟨x, loadWords s.b w, exec_ldw _, agreeBelow_loadWords s.b s.w w⟩
  · obtain ⟨-, rfl⟩ := exec_exp_eq_next ht
    exact ⟨x, _, exec_exp k _ hk,
      writtenAgrees_afterExpand (AgreeBelow.expand (k := wordIndex k) hk h)⟩
  · obtain rfl := Host.Outcome.next.inj ((exec_ldv _).symm.trans ht)
    exact ⟨s.h, w, exec_ldv _, h, rfl⟩
  · obtain rfl := Host.Outcome.next.inj ((exec_rnd k _).symm.trans ht)
    obtain ⟨rfl, rfl⟩ := h
    exact ⟨_, _, exec_rnd k _, writtenAgrees_afterRound k⟩
  · obtain rfl := Host.Outcome.next.inj ((exec_add _).symm.trans ht)
    obtain rfl := h
    exact ⟨_, _, exec_add _, trivial⟩

theorem rstPin_of_noResetFor {n : Nat} (h : noResetFor (n + 1) s.stream = true) :
    s.rstPin = false ∧ noResetFor n (heldStream s.stream) = true := by
  cases hl : s.stream with
  | nil => exact ⟨rstPin_nil s hl, by cases n <;> rfl⟩
  | cons m rest =>
    rw [hl] at h
    cases m with
    | present c => exact ⟨rstPin_present s c rest hl, by cases n <;> rfl⟩
    | pins r v c => simpa [noResetFor, rstPin_pins s r v c rest hl] using h

/-- While the RUN lasts, two such engines go on differing in W and x alone. -/
theorem run_withXW {n : Nat} (hl : s.SeqLegal) (hn : n ≤ s.seq.stepsToIdle)
    (hr : noResetFor n s.stream = true) (h : s.WrittenAgrees x w) :
    ∃ t x' w', run n s = .next t ∧ run n (s.withXW x w) = .next (t.withXW x' w') := by
  induction n generalizing s x w with
  | zero => exact ⟨s, x, w, rfl, rfl⟩
  | succ n ih =>
    have hb := Seq.busy_of_stepsToIdle_pos (q := s.seq) (by omega)
    obtain ⟨hrst, hrest⟩ := rstPin_of_noResetFor hr
    obtain ⟨u, hu, huq, hustream⟩ := step_busy hl hrst hb
    obtain ⟨x', w', hu', hagree⟩ := step_withXW hl hrst hb h hu
    have hul : u.SeqLegal := seqLegal_of_step hl hu
    have hsteps := Seq.stepsToIdle_next hl hb
    rw [run_succ hu, run_succ hu']
    exact ih hul (by rw [huq]; omega) (by rw [hustream]; exact hrest) hagree

/-- Settles O48: the accepting step starts the simulation with nothing written yet. -/
theorem oldScheduleNeverReachesH : Obligations.OldScheduleNeverReachesH := by
  unfold Obligations.OldScheduleNeverReachesH
  intro s x w hq ha hr
  have hs : step s = .next (s.consumed.setSeq Seq.load) :=
    step_of_accepted (i := .run) hq ha decodeCommand_encRun
  have hs' : step (s.withXW x w) = .next ((s.consumed.setSeq Seq.load).withXW x w) :=
    step_of_accepted (s := s.withXW x w) (i := .run) hq ha decodeCommand_encRun
  obtain ⟨t, x', w', ht, ht'⟩ := run_withXW (n := 115) (s := s.consumed.setSeq Seq.load)
    (x := x) (w := w) Seq.legal_load (Nat.le_refl 115) hr trivial
  exact ⟨t, t.withXW x' w', (run_succ hs).trans ht, (run_succ hs').trans ht', rfl⟩

end Sys2Proof.Machine
end

section
/-! PROOFS. The byte spaces and the commands that use them (20_memory.md R42, R48). -/

namespace Sys2Proof.Machine

/-! ## The digest bytes (R42) -/

variable (h : Vector Word 8)

theorem digestBytes_length : (digestBytes h).length = 32 := by
  simp [digestBytes]

theorem digestBytes_getElem (j : Nat) (hj : j < (digestBytes h).length) :
    (digestBytes h)[j] = digestByte h ⟨j, digestBytes_length h ▸ hj⟩ := by
  simp [digestBytes]

/-- Byte r of chaining word i, counted from the most significant, is byte 4i + r of the window. -/
theorem digestByte_of_word (i : Fin 8) (r : Fin 4) :
    digestByte h ⟨4 * i.val + r.val, by omega⟩ = h[i.val].extractLsb' (24 - 8 * r.val) 8 := by
  have hdiv : (4 * i.val + r.val) / 4 = i.val := by omega
  have hmod : (4 * i.val + r.val) % 4 = r.val := by omega
  simp only [digestByte, hdiv, hmod]

/-- The four digest bytes from 4i on are the bytes of chaining word i, most significant first. -/
theorem digestBytes_of_word (i : Fin 8) :
    ((digestBytes h).drop (4 * i.val)).take 4 =
      [h[i.val].extractLsb' 24 8, h[i.val].extractLsb' 16 8, h[i.val].extractLsb' 8 8,
        h[i.val].extractLsb' 0 8] := by
  have hbyte (r : Fin 4) : (digestBytes h)[4 * i.val + r.val]'(by rw [digestBytes_length]; omega) =
      h[i.val].extractLsb' (24 - 8 * r.val) 8 := by
    rw [digestBytes_getElem, digestByte_of_word]
  refine List.ext_getElem ?_ fun r _ hr => ?_
  · simp only [List.length_take, List.length_drop, digestBytes_length, List.length_cons,
      List.length_nil]
    omega
  · have hr4 : r < 4 := hr
    rw [List.getElem_take, List.getElem_drop, hbyte ⟨r, hr4⟩]
    interval_cases r <;> rfl

/-- A word is the big-endian sum of its four bytes. -/
theorem word_toNat_eq_bytes (v : Word) :
    v.toNat = (v.extractLsb' 24 8).toNat * 2 ^ 24 + (v.extractLsb' 16 8).toNat * 2 ^ 16 +
      (v.extractLsb' 8 8).toNat * 2 ^ 8 + (v.extractLsb' 0 8).toNat := by
  have hv := v.isLt
  simp only [BitVec.extractLsb'_toNat, Nat.shiftRight_eq_div_pow]
  omega

/-- Settles O33, word by word. -/
theorem digestIsThirtyTwoBigEndianBytes : Obligations.DigestIsThirtyTwoBigEndianBytes := by
  unfold Obligations.DigestIsThirtyTwoBigEndianBytes
  refine fun h => ⟨digestBytes_length h, fun j => ?_, fun i => ?_⟩
  · have hj : j.val < (digestBytes h).length := by rw [digestBytes_length]; exact j.isLt
    rw [List.getElem?_eq_getElem hj, digestBytes_getElem]
  · exact ⟨_, _, _, _, digestBytes_of_word h i, word_toNat_eq_bytes h[i.val]⟩

/-! ## Commands run twice (R48) -/

theorem writeBlock_writeBlock_same (s : State) (j : Fin 64) (v : Byte) :
    (s.writeBlock j v).writeBlock j v = s.writeBlock j v := by
  simp [State.writeBlock]

/-- Settles O26, command by command: INIT and WRB write again what they wrote, and an RDD's byte is
not part of what it reads. -/
theorem commandsButRunAreIdempotent : Obligations.CommandsButRunAreIdempotent := by
  unfold Obligations.CommandsButRunAreIdempotent
  intro i s t hhost hrun ht
  cases i with
  | nop => exact ⟨t, exec_nop t, rfl, nofun⟩
  | init => cases ht; exact ⟨_, exec_init _, rfl, nofun⟩
  | wrb a d =>
    cases ht
    exact ⟨_, (exec_wrb a d _).trans (congrArg _ (writeBlock_writeBlock_same s _ d)), rfl, nofun⟩
  | run => exact absurd rfl hrun
  | rdd a => cases ht; exact ⟨_, exec_rdd a _, rfl, fun _ _ => ⟨rfl, _, rfl, rfl⟩⟩
  | _ => cases hhost

end Sys2Proof.Machine
end

section
/-! PROOFS. One RUN as a whole: the engine's 115 steps from (LOAD, 0) in three stretches, each with the
exact state it ends in: the schedule (41_message_schedule.md R94), the rounds (42_round_function.md
R107), and the add-back (43_chaining_update.md R111, R112). -/

namespace Sys2Proof.Machine

/-! ## The schedule's recurrence (R94) -/

/-- Words 0 to 15 of Schedule(B) are those LDW loads, whatever W held. -/
theorem agreeBelow_schedule_loadWords (b : Vector Byte 64) (w : Vector Word 64) :
    AgreeBelow 16 (schedule b) (loadWords b w) := by
  intro i hi h
  rw [schedule, scheduleUpTo_stable b 0 48 i (by omega) hi h]
  exact agreeBelow_loadWords b _ w i hi h

/-- From word 16 on, each word of Schedule(B) is EXP's of the words before it. -/
theorem schedule_eq_expandWord (b : Vector Byte 64) (k : Fin 64) (hk : 16 ≤ k.val) :
    (schedule b)[k.val] = expandWord (schedule b) k := by
  obtain ⟨n, hn⟩ := Nat.exists_eq_add_of_le hk
  have hlt : 16 + n < 64 := hn ▸ k.isLt
  obtain rfl : k = ⟨16 + n, hlt⟩ := Fin.ext hn
  have hprefix : expandWord (scheduleUpTo b n) ⟨16 + n, hlt⟩ =
      expandWord (schedule b) ⟨16 + n, hlt⟩ :=
    expandWord_congr _ _ _ hk fun i hik hi =>
      (scheduleUpTo_stable b n 48 i (by omega) hi hik).symm
  calc (schedule b)[16 + n]
      = (scheduleUpTo b (n + 1))[16 + n] :=
        scheduleUpTo_stable b (n + 1) 48 _ (by omega) hlt (by omega)
    _ = expandWord (schedule b) ⟨16 + n, hlt⟩ := by
        simp only [scheduleUpTo_succ b n hlt, Vector.getElem_set_self, hprefix]

/-- EXP k extends the words that agree with Schedule(B) by one. -/
theorem AgreeBelow.expandSchedule {b : Vector Byte 64} {w : Vector Word 64} {k : BitVec 6}
    (hk : 16 ≤ k.toNat) (h : AgreeBelow k.toNat (schedule b) w) :
    AgreeBelow (k.toNat + 1) (schedule b)
      (w.set k.toNat (expandWord w (wordIndex k)) k.isLt) := by
  have hset := AgreeBelow.expand (k := wordIndex k) hk h
  rwa [← schedule_eq_expandWord b (wordIndex k) hk, Vector.set_getElem_self] at hset

/-- RND k takes the variables after the rounds before k to those after round k. -/
theorem roundVars_roundsUpTo (h : Vector Word 8) (w : Vector Word 64) (k : BitVec 6) :
    roundVars (roundsUpTo h w k.toNat) (kAt (wordIndex k)) w[k.toNat] =
      roundsUpTo h w (k.toNat + 1) :=
  (roundsUpTo_succ h w k.toNat k.isLt).symm

/-! ## One engine step at each sequencer word (R66, R67) -/

variable {s : State}

/-- The step of a busy engine performs what its sequencer word selects (R144). -/
theorem step_engine {i : Instr} (hr : s.rstPin = false) (hb : s.seq.phase ≠ .idle)
    (hi : engineEvent s.seq = .perform i) : step s = exec i s.held :=
  step_perform ((event_busy s hr hb).trans hi)

theorem step_load (hr : s.rstPin = false) (hq : s.seq = Seq.load) :
    step s = .next { s with
      seq := Seq.firstExpand, w := loadWords s.b s.w, stream := heldStream s.stream } := by
  rw [step_engine hr (by simp [hq]) (hq ▸ engineEvent_load), exec_ldw, State.loadSchedule]
  rfl

theorem step_expand {k : BitVec 6} (hr : s.rstPin = false)
    (hq : s.seq = { phase := .expand, t := k }) (hk : 16 ≤ k.toNat) :
    step s = .next { s with
      seq := Seq.afterExpand k
      w := s.w.set k.toNat (expandWord s.w (wordIndex k)) k.isLt
      stream := heldStream s.stream } :=
  (step_engine hr (by simp [hq]) (hq ▸ engineEvent_expand k hk)).trans (exec_exp k _ hk)

theorem step_initv (hr : s.rstPin = false) (hq : s.seq = Seq.initv) :
    step s = .next { s with
      seq := Seq.firstRound, x := s.h, stream := heldStream s.stream } :=
  (step_engine hr (by simp [hq]) (hq ▸ engineEvent_initv)).trans (exec_ldv _)

theorem step_round {k : BitVec 6} (hr : s.rstPin = false)
    (hq : s.seq = { phase := .round, t := k }) :
    step s = .next { s with
      seq := Seq.afterRound k
      x := roundVars s.x (kAt (wordIndex k)) s.w[k.toNat]
      stream := heldStream s.stream } :=
  (step_engine hr (by simp [hq]) (hq ▸ engineEvent_round k)).trans (exec_rnd k _)

theorem step_addback (hr : s.rstPin = false) (hq : s.seq = Seq.addback) :
    step s = .next { s with
      seq := Seq.idle, h := addWords s.h s.x, stream := heldStream s.stream } :=
  (step_engine hr (by simp [hq]) (hq ▸ engineEvent_addback)).trans (exec_add _)

/-! ## The three stretches of a RUN -/

/-- The EXP steps from word k to word 63 complete Schedule(B), if the words below k are its. -/
theorem run_expand {n : Nat} {k : BitVec 6} {b : Vector Byte 64} (hn : k.toNat + n = 63)
    (hk : 16 ≤ k.toNat) (hq : s.seq = { phase := .expand, t := k })
    (hr : noResetFor (n + 1) s.stream = true) (hw : AgreeBelow k.toNat (schedule b) s.w) :
    run (n + 1) s = .next { s with
      seq := Seq.initv, w := schedule b, stream := heldFor (n + 1) s.stream } := by
  induction n generalizing s k with
  | zero =>
    obtain ⟨hrst, -⟩ := rstPin_of_noResetFor hr
    have hlast : Seq.afterExpand k = Seq.initv := by rw [Seq.afterExpand, if_neg (by omega)]
    have hall := hw.expandSchedule hk
    rw [show k.toNat + 1 = 64 by omega] at hall
    rw [run_succ (step_expand hrst hq hk), hlast, hall.eq]
    rfl
  | succ n ih =>
    obtain ⟨hrst, hrest⟩ := rstPin_of_noResetFor hr
    have hlt : k.toNat < 63 := by omega
    have hsucc := toNat_succ_of_lt k hlt
    rw [run_succ (step_expand hrst hq hk)]
    exact ih (k := k + 1#6) (by omega) (by omega) (if_pos hlt) hrest
      (by rw [hsucc]; exact hw.expandSchedule hk)

/-- LDW and the 48 EXP steps leave Schedule(B) in W (R94). -/
theorem run_schedule (hq : s.seq = Seq.load) (hr : noResetFor 49 s.stream = true) :
    run 49 s = .next { s with
      seq := Seq.initv, w := schedule s.b, stream := heldFor 49 s.stream } := by
  obtain ⟨hrst, hrest⟩ := rstPin_of_noResetFor hr
  rw [run_succ (step_load hrst hq)]
  exact run_expand (k := 16#6) (n := 47) rfl (Nat.le_refl 16) rfl hrest
    (agreeBelow_schedule_loadWords s.b s.w)

/-- The RND steps from round k to round 63 complete Rounds(H, W), if x is that of the rounds before k. -/
theorem run_round {n : Nat} {k : BitVec 6} {h : Vector Word 8} (hn : k.toNat + n = 63)
    (hq : s.seq = { phase := .round, t := k }) (hr : noResetFor (n + 1) s.stream = true)
    (hx : s.x = roundsUpTo h s.w k.toNat) :
    run (n + 1) s = .next { s with
      seq := Seq.addback, x := rounds h s.w, stream := heldFor (n + 1) s.stream } := by
  induction n generalizing s k with
  | zero =>
    obtain ⟨hrst, -⟩ := rstPin_of_noResetFor hr
    have hlast : Seq.afterRound k = Seq.addback := by rw [Seq.afterRound, if_neg (by omega)]
    rw [run_succ (step_round hrst hq), hlast, hx, roundVars_roundsUpTo,
      show k.toNat + 1 = 64 by omega]
    rfl
  | succ n ih =>
    obtain ⟨hrst, hrest⟩ := rstPin_of_noResetFor hr
    have hlt : k.toNat < 63 := by omega
    have hsucc := toNat_succ_of_lt k hlt
    rw [run_succ (step_round hrst hq), hx, roundVars_roundsUpTo]
    exact ih (k := k + 1#6) (by omega) (if_pos hlt) hrest (by rw [hsucc])

/-- LDV and the 64 RND steps leave Rounds(H, W) in x (R107). -/
theorem run_rounds (hq : s.seq = Seq.initv) (hr : noResetFor 65 s.stream = true) :
    run 65 s = .next { s with
      seq := Seq.addback, x := rounds s.h s.w, stream := heldFor 65 s.stream } := by
  obtain ⟨hrst, hrest⟩ := rstPin_of_noResetFor hr
  rw [run_succ (step_initv hrst hq)]
  exact run_round (k := 0#6) (n := 63) rfl rfl hrest rfl

/-- ADD adds the working variables into H (R111). -/
theorem run_addback (hq : s.seq = Seq.addback) (hr : noResetFor 1 s.stream = true) :
    run 1 s = .next { s with
      seq := Seq.idle, h := addWords s.h s.x, stream := heldFor 1 s.stream } :=
  run_succ (step_addback (rstPin_of_noResetFor hr).1 hq)

/-! ## The RUN from its acceptance to its end -/

theorem heldFor_add (m n : Nat) (l : List HostMove) :
    heldFor (m + n) l = heldFor n (heldFor m l) := by
  induction m generalizing l with
  | zero => rw [Nat.zero_add]; rfl
  | succ m ih => rw [Nat.succ_add]; exact ih (heldStream l)

theorem heldFor_present (n : Nat) (c : Word) (l : List HostMove) :
    heldFor n (.present c :: l) = .present c :: l := by
  induction n with
  | zero => rfl
  | succ n ih => exact ih

theorem noResetFor_succ (n : Nat) (l : List HostMove) :
    noResetFor (n + 1) l = (noResetFor 1 l && noResetFor n (heldStream l)) := by
  cases l with
  | nil => cases n <;> rfl
  | cons m rest =>
    cases m with
    | present c => cases n <;> rfl
    | pins r v c => simp [noResetFor]

/-- No reset for m + n steps is none for m, and then none for n. -/
theorem noResetFor_add (m n : Nat) (l : List HostMove) :
    noResetFor (m + n) l = (noResetFor m l && noResetFor n (heldFor m l)) := by
  induction m generalizing l with
  | zero => rw [Nat.zero_add]; rfl
  | succ m ih =>
    rw [Nat.succ_add, noResetFor_succ, ih, noResetFor_succ m, Bool.and_assoc]
    rfl

/-- The 115 engine steps of a RUN, with everything they leave (R112). -/
theorem run_compress (hq : s.seq = Seq.load) (hr : noResetFor 115 s.stream = true) :
    run 115 s = .next { s with
      seq := Seq.idle, h := compress s.h s.b, x := rounds s.h (schedule s.b), w := schedule s.b
      stream := heldFor 115 s.stream } := by
  obtain ⟨hr49, hr65, hr1⟩ : noResetFor 49 s.stream = true ∧
      noResetFor 65 (heldFor 49 s.stream) = true ∧
      noResetFor 1 (heldFor 65 (heldFor 49 s.stream)) = true := by
    simpa [noResetFor_add 49 66, noResetFor_add 65 1] using hr
  rw [run_add (j := 49) 66 (run_schedule hq hr49), run_add (j := 65) 1 (run_rounds rfl hr65),
    run_addback rfl, heldFor_add 49 66, heldFor_add 65 1]
  · simp only [compress]
  · simpa only using hr1

/-- A RUN accepted by an idle engine, 116 steps later (R83, R112). -/
theorem run_of_accepted_run (hq : s.seq = Seq.idle) (ha : s.accepted = some encRun)
    (hr : noResetFor 115 s.stream.tail = true) :
    run 116 s = .next { s with
      seq := Seq.idle, h := compress s.h s.b, x := rounds s.h (schedule s.b), w := schedule s.b
      stream := heldFor 115 s.stream.tail } := by
  have hs : step s = .next (s.consumed.setSeq Seq.load) :=
    step_of_accepted (i := .run) hq ha decodeCommand_encRun
  rw [run_succ hs]
  exact run_compress rfl hr

end Sys2Proof.Machine
end

section
/-! PROOFS. Command programs on the port (30_encoding.md R71): one command after another on an idle
engine, and what a program around a RUN returns (20_memory.md R51). -/

namespace Sys2Proof.Machine

theorem decodeCommand_encInit : decodeCommand encInit = .instr .init := by decide

theorem decodeCommand_encWrb (a : BitVec 6) (d : Byte) :
    decodeCommand (encWrb a d) = .instr (.wrb a d) := by
  have ha := a.isLt
  have hd := d.isLt
  have hval := encWrb_toNat a d
  have haddr : wrbAddrField (encWrb a d) = a := by
    apply BitVec.eq_of_toNat_eq
    rw [wrbAddrField_toNat, hval]
    omega
  have hdata : dataField (encWrb a d) = d := by
    apply BitVec.eq_of_toNat_eq
    rw [dataField_toNat, hval]
    omega
  have hcases := decodeCommand_cases (encWrb a d)
  rw [haddr, hdata, hval] at hcases
  rcases hcases with ⟨-, h⟩ | ⟨-, h⟩ | ⟨hwrb, -⟩ | ⟨-, h⟩ | ⟨-, h, -⟩ | ⟨-, -, -, h, -⟩
  · omega
  · omega
  · exact hwrb
  · omega
  · omega
  · omega

variable {s : State}

/-- An idle engine accepts the command its host presents (R71, R86). -/
theorem accepted_of_present {c : Word} {rest : List HostMove} (hq : s.seq = Seq.idle)
    (hs : s.stream = .present c :: rest) : s.accepted = some c :=
  (accepted_eq_some s c).2 ⟨by simp [State.cmdValidPin, hs], by simp [State.cmdReady, hq],
    rstPin_present s c rest hs, by simp [State.cmdPin, hs]⟩

/-- The step in which an idle engine takes the next command of a program (R71). -/
theorem step_present {c : Word} {i : Instr} {rest : List HostMove} (hq : s.seq = Seq.idle)
    (hs : s.stream = .present c :: rest) (hd : decodeCommand c = .instr i) :
    step s = exec i { s with stream := rest } := by
  rw [step_of_accepted hq (accepted_of_present hq hs) hd, State.consumed, hs, List.tail_cons]

/-- A RUN with another command behind it, which stays presented until the RUN is over (R71, R86). -/
theorem run_present_run {c : Word} {rest : List HostMove} (hq : s.seq = Seq.idle)
    (hs : s.stream = .present encRun :: .present c :: rest) :
    run 116 s = .next { s with
      seq := Seq.idle, h := compress s.h s.b, x := rounds s.h (schedule s.b), w := schedule s.b
      stream := .present c :: rest } := by
  have hrun := run_of_accepted_run hq (accepted_of_present hq hs) (by rw [hs]; rfl)
  rwa [hs, List.tail_cons, heldFor_present] at hrun

/-- An RDD presented to an idle engine returns a byte of the chaining state and is over (R84). -/
theorem run_present_rdd {j : BitVec 5} {rest : List HostMove} (hq : s.seq = Seq.idle)
    (hs : s.stream = .present (encRdd j) :: rest) :
    run 1 s = .next { s with
      stream := rest, responses := s.responses ++ [digestByte s.h (digestAddr j)] } :=
  run_succ ((step_present hq hs (decodeCommand_encRdd j)).trans (exec_rdd j _))

/-- RUN and RDD in that order return a byte of Compress(H, B). -/
theorem run_present_run_rdd {j : BitVec 5} {rest : List HostMove} (hq : s.seq = Seq.idle)
    (hs : s.stream = presentAll [encRun, encRdd j] ++ rest) :
    ∃ t, run 117 s = .next t ∧ t.stream = rest ∧
      t.responses = s.responses ++ [digestByte (compress s.h s.b) (digestAddr j)] :=
  ⟨_, (run_add (j := 116) 1 (run_present_run hq hs)).trans (run_present_rdd rfl rfl), rfl, rfl⟩

/-- Settles O50: a command before the RUN changes what RUN and RDD start from, and a WRB after it is
still presented when the RUN is over. -/
theorem commandsTakeEffectInOrderAroundRun :
    Obligations.CommandsTakeEffectInOrderAroundRun := by
  unfold Obligations.CommandsTakeEffectInOrderAroundRun
  intro s a d j rest hq
  refine ⟨fun hs => ?_, fun hs => ?_, fun hs => ?_⟩
  · have hwrb := (step_present hq hs (decodeCommand_encWrb a d)).trans (exec_wrb a d _)
    rw [run_succ (n := 117) hwrb]
    exact run_present_run_rdd hq rfl
  · rw [run_add (j := 116) 2 (run_present_run hq hs),
      run_succ ((step_present rfl rfl (decodeCommand_encWrb a d)).trans (exec_wrb a d _))]
    exact ⟨_, run_present_rdd rfl rfl, rfl, rfl, rfl⟩
  · have hinit := (step_present hq hs decodeCommand_encInit).trans (exec_init _)
    rw [run_succ (n := 117) hinit]
    exact run_present_run_rdd hq rfl

end Sys2Proof.Machine
end

section
/-! PROOFS. The two encodings (30_encoding.md): the command map and its decoder against the encoder
(R62, R68, R73), the sequencer map (R64, R66, R69), and the step that each word selects (R67). -/

namespace Sys2Proof.Machine

/-! ## Decoding an encoding (R64, R66, R73) -/

/-- The word of a sequencer state decodes to the micro-operation the engine performs in it. -/
theorem engineEvent_eq_perform_iff {q : Seq} {i : Instr} :
    engineEvent q = .perform i ↔ decodeSequencer q.word = .instr i := by
  rw [engineEvent]
  cases decodeSequencer q.word <;> simp

theorem decodeSequencer_load : decodeSequencer Seq.load.word = .instr .ldw :=
  engineEvent_eq_perform_iff.1 engineEvent_load

theorem decodeSequencer_expand {k : BitVec 6} (hk : 16 ≤ k.toNat) :
    decodeSequencer (Seq.word { phase := .expand, t := k }) = .instr (.exp k) :=
  engineEvent_eq_perform_iff.1 (engineEvent_expand k hk)

theorem decodeSequencer_initv : decodeSequencer Seq.initv.word = .instr .ldv :=
  engineEvent_eq_perform_iff.1 engineEvent_initv

theorem decodeSequencer_round (k : BitVec 6) :
    decodeSequencer (Seq.word { phase := .round, t := k }) = .instr (.rnd k) :=
  engineEvent_eq_perform_iff.1 (engineEvent_round k)

theorem decodeSequencer_addback : decodeSequencer Seq.addback.word = .instr .add :=
  engineEvent_eq_perform_iff.1 engineEvent_addback

theorem decodeCommand_encNop : decodeCommand encNop = .instr .nop := by decide

theorem decode_encode {i : Instr} (h : i.WellFormed) : decode (encode i) = .instr i := by
  cases i with
  | nop => exact decodeCommand_encNop
  | init => exact decodeCommand_encInit
  | wrb a d => exact decodeCommand_encWrb a d
  | run => exact decodeCommand_encRun
  | rdd a => exact decodeCommand_encRdd a
  | ldw => exact decodeSequencer_load
  | exp k => exact decodeSequencer_expand (of_decide_eq_true h)
  | ldv => exact decodeSequencer_initv
  | rnd k => exact decodeSequencer_round k
  | add => exact decodeSequencer_addback

/-- Settles O1, one row of the opcode table after another. -/
theorem decodeOfEncodeIsTheInstruction : Obligations.DecodeOfEncodeIsTheInstruction := by
  unfold Obligations.DecodeOfEncodeIsTheInstruction
  exact fun _ h => decode_encode h

/-! ## The command map row by row (R62, R73) -/

variable {c : Word}

theorem wellFormed_of_host {i : Instr} (h : i.agent = .host) : i.WellFormed := by
  cases i with
  | exp k => cases h
  | _ => rfl

/-- Decoder and encoder are inverse on the commands. -/
theorem decodeCommand_eq_instr_iff {i : Instr} (h : i.agent = .host) :
    decodeCommand c = .instr i ↔ encode i = .command c := by
  refine ⟨encode_of_decodeCommand, fun he => ?_⟩
  have hd := decode_encode (wellFormed_of_host h)
  rwa [he] at hd

/-- A mask of ones keeps the whole word. -/
theorem and_fullMask (c : Word) : c &&& 0xFFFFFFFF#32 = c := BitVec.and_allOnes

/-- A command without operands is the one word its encoding is. -/
theorem decodeCommand_eq_iff_and_fullMask {i : Instr} {e : Word} (h : i.agent = .host)
    (he : encode i = .command e) : decodeCommand c = .instr i ↔ c &&& 0xFFFFFFFF#32 = e := by
  rw [decodeCommand_eq_instr_iff h, he, and_fullMask, CodeWord.command.injEq, eq_comm]

theorem encWrb_fields (h : Row.wrb.holds c = true) :
    encWrb (wrbAddrField c) (dataField c) = c := by
  have hv := (Row.wrb_holds c).1 h
  apply BitVec.eq_of_toNat_eq
  rw [encWrb_toNat, wrbAddrField_toNat, dataField_toNat]
  omega

theorem encRdd_fields (h : Row.rdd.holds c = true) : encRdd (rddAddrField c) = c := by
  obtain ⟨hhigh, hlow⟩ := (Row.rdd_holds c).1 h
  apply BitVec.eq_of_toNat_eq
  rw [encRdd_toNat, rddAddrField_toNat]
  omega

theorem decodeCommand_eq_wrb_iff {a : BitVec 6} {d : Byte} :
    decodeCommand c = .instr (.wrb a d) ↔
      Row.wrb.holds c = true ∧ a = wrbAddrField c ∧ d = dataField c := by
  constructor
  · intro h
    have hrow : Row.wrb.holds c = true := eq_encWrb_of_decodeCommand h ▸ Laws.RowMatch.wrb a d
    have hfields := decodeCommand_encWrb (wrbAddrField c) (dataField c)
    rw [encWrb_fields hrow, h] at hfields
    cases hfields
    exact ⟨hrow, rfl, rfl⟩
  · rintro ⟨hrow, rfl, rfl⟩
    rw [← decodeCommand_encWrb, encWrb_fields hrow]

theorem decodeCommand_eq_rdd_iff {a : BitVec 5} :
    decodeCommand c = .instr (.rdd a) ↔ Row.rdd.holds c = true ∧ a = rddAddrField c := by
  constructor
  · intro h
    have hrow : Row.rdd.holds c = true := eq_encRdd_of_decodeCommand h ▸ Laws.RowMatch.rdd a
    have hfields := decodeCommand_encRdd (rddAddrField c)
    rw [encRdd_fields hrow, h] at hfields
    cases hfields
    exact ⟨hrow, rfl⟩
  · rintro ⟨hrow, rfl⟩
    rw [← decodeCommand_encRdd, encRdd_fields hrow]

/-- Settles O2: the masks of ones drop out of the decoder's tests, and the inverses are O1 and its
converse on format C. -/
theorem commandDecoderAndEncoderAreInverse : Obligations.CommandDecoderAndEncoderAreInverse := by
  unfold Obligations.CommandDecoderAndEncoderAreInverse
  refine ⟨fun c => ?_, rfl, rfl, fun a d => ⟨_, rfl, encWrb_toNat a d⟩, rfl,
    fun a => ⟨_, rfl, encRdd_toNat a⟩, fun _ h => decode_encode (wellFormed_of_host h),
    fun _ _ => encode_of_decodeCommand⟩
  simp only [decodeCommand, Row.holds, Row.nop, Row.init, Row.wrb, Row.run, Row.rdd, and_fullMask,
    beq_iff_eq, wrbAddrField, dataField, rddAddrField]

/-! ## How many words are legal (R62, R68) -/

/-- The legal command words: the three without operands, WRB's and RDD's. -/
def legalWord : Fin 3 ⊕ (BitVec 6 × Byte) ⊕ BitVec 5 → Word :=
  Sum.elim ![encNop, encInit, encRun] (Sum.elim (fun p => encWrb p.1 p.2) encRdd)

theorem encWrb_injective : Function.Injective fun p : BitVec 6 × Byte => encWrb p.1 p.2 := by
  intro p q h
  have hd := congrArg decodeCommand h
  rw [decodeCommand_encWrb, decodeCommand_encWrb] at hd
  obtain ⟨ha, hb⟩ := Instr.wrb.inj (Decoded.instr.inj hd)
  exact Prod.ext ha hb

theorem encRdd_injective : Function.Injective encRdd := by
  intro a b h
  have hd := congrArg decodeCommand h
  rw [decodeCommand_encRdd, decodeCommand_encRdd] at hd
  exact Instr.rdd.inj (Decoded.instr.inj hd)

/-- The three parts have no OP field in common. -/
theorem legalWord_injective : Function.Injective legalWord := by
  have hop : ∀ n : Fin 3, (![encNop, encInit, encRun] n).toNat / 2 ^ 28 ≠ 2 ∧
      (![encNop, encInit, encRun] n).toNat / 2 ^ 28 ≠ 4 := by decide
  refine .sumElim (by decide) (encWrb_injective.sumElim encRdd_injective fun p a h => ?_) ?_
  · have hv := congrArg BitVec.toNat h
    rw [encWrb_toNat, encRdd_toNat] at hv
    omega
  · rintro n (p | a) h
    · have hv := (congrArg BitVec.toNat h).trans (encWrb_toNat p.1 p.2)
      have := (hop n).1
      omega
    · have hv := (congrArg BitVec.toNat h).trans (encRdd_toNat a)
      have := (hop n).2
      omega

theorem range_legalWord : Set.range legalWord = {c | ∃ i, decodeCommand c = .instr i} := by
  ext c
  constructor
  · rintro ⟨n | p | a, rfl⟩
    · fin_cases n
      · exact ⟨_, decodeCommand_encNop⟩
      · exact ⟨_, decodeCommand_encInit⟩
      · exact ⟨_, decodeCommand_encRun⟩
    · exact ⟨_, decodeCommand_encWrb p.1 p.2⟩
    · exact ⟨_, decodeCommand_encRdd a⟩
  · rintro ⟨i, hi⟩
    have he := encode_of_decodeCommand hi
    cases i with
    | nop => exact ⟨.inl 0, CodeWord.command.inj he⟩
    | init => exact ⟨.inl 1, CodeWord.command.inj he⟩
    | run => exact ⟨.inl 2, CodeWord.command.inj he⟩
    | wrb a d => exact ⟨.inr (.inl (a, d)), CodeWord.command.inj he⟩
    | rdd a => exact ⟨.inr (.inr a), CodeWord.command.inj he⟩
    | _ => cases he

theorem natCard_bitVec (n : Nat) : Nat.card (BitVec n) = 2 ^ n := by
  rw [Nat.card_congr BitVec.equivFin.toEquiv, Nat.card_fin]

theorem ncard_legalWords : Set.ncard {c : Word | ∃ i, decodeCommand c = .instr i} = 16419 := by
  rw [← range_legalWord, Set.ncard_range_of_injective legalWord_injective]
  simp only [Nat.card_sum, Nat.card_prod, natCard_bitVec, Nat.card_fin]
  rfl

/-- Two rows that one word matches agree where both masks look. -/
theorem patterns_agree_of_matches {p m p' m' : Word} (h : c &&& m = p) (h' : c &&& m' = p') :
    p &&& m' = p' &&& m := by
  rw [← h, ← h', BitVec.and_assoc, BitVec.and_assoc, BitVec.and_comm m]

/-- Settles O3: every row against its command, rows told apart by the patterns under both masks, and
the count by an enumeration of the legal words. -/
theorem commandMapHasDisjointRows : Obligations.CommandMapHasDisjointRows := by
  unfold Obligations.CommandMapHasDisjointRows
  refine ⟨fun c => ⟨?_, ?_, ?_, ?_, ?_, ?_, ?_⟩, ?_, ncard_legalWords⟩
  · exact decodeCommand_eq_iff_and_fullMask rfl rfl
  · exact decodeCommand_eq_iff_and_fullMask rfl rfl
  · simp [decodeCommand_eq_wrb_iff, Row.holds, Row.wrb]
  · exact fun a d h => (decodeCommand_eq_wrb_iff.1 h).2
  · exact decodeCommand_eq_iff_and_fullMask rfl rfl
  · simp [decodeCommand_eq_rdd_iff, Row.holds, Row.rdd]
  · exact fun a h => (decodeCommand_eq_rdd_iff.1 h).2
  · refine List.Pairwise.imp (R := fun r r' : Word × Word => r.1 &&& r'.2 ≠ r'.1 &&& r.2)
      (fun hne c h => hne (patterns_agree_of_matches h.1 h.2)) (by decide)

/-! ## The illegal command words (R68) -/

/-- A word is no command when it matches no row, read as arithmetic on its value. -/
theorem not_command_iff : (∀ i, decodeCommand c ≠ .instr i) ↔
    c.toNat ≠ 0 ∧ c.toNat ≠ 0x10000000 ∧ c.toNat / 2 ^ 14 ≠ 0x8000 ∧ c.toNat ≠ 0x30000000 ∧
      ¬(c.toNat / 2 ^ 13 = 0x20000 ∧ c.toNat % 2 ^ 8 = 0) := by
  rcases decodeCommand_cases c with
    ⟨hd, hv⟩ | ⟨hd, hv⟩ | ⟨hd, hv⟩ | ⟨hd, hv⟩ | ⟨hd, hv⟩ | ⟨hd, hv⟩
  case inr.inr.inr.inr.inr => exact iff_of_true (by simp [hd]) hv
  all_goals exact iff_of_false (fun h => h _ hd) (by omega)

theorem ncard_illegalWords :
    Set.ncard {c : Word | ∀ i, decodeCommand c ≠ .instr i} = 2 ^ 32 - 16419 := by
  have hcompl : {c : Word | ∀ i, decodeCommand c ≠ .instr i} =
      {c : Word | ∃ i, decodeCommand c = .instr i}ᶜ := by
    ext c
    simp
  rw [hcompl, Set.ncard_compl, ncard_legalWords, natCard_bitVec]

/-- The step in which an idle engine accepts a word that is no command (R85). -/
theorem step_of_accepted_illegal {s : State} (hq : s.seq = Seq.idle) (ha : s.accepted = some c)
    (hd : ∀ i, decodeCommand c ≠ .instr i) : step s = .next (s.consumed.raiseIllegalCommand c) := by
  obtain ⟨hv, -, hr, rfl⟩ := (accepted_eq_some s c).1 ha
  rcases commandEvent_cases s.cmdPin with ⟨i, hi, -⟩ | ⟨-, he⟩
  · exact absurd hi (hd i)
  · exact step_illegal (by simp [event_idle s hr hq, hv, he])

/-- Settles O4: the conditions on the fields are those on the word's value. -/
theorem illegalCommandWordsAreExactlyThese : Obligations.IllegalCommandWordsAreExactlyThese := by
  unfold Obligations.IllegalCommandWordsAreExactlyThese
  refine ⟨fun c => ?_, ncard_illegalWords, fun s c => step_of_accepted_illegal⟩
  have hc := c.isLt
  rw [not_command_iff]
  simp only [← BitVec.toNat_inj, BitVec.extractLsb'_toNat, Nat.shiftRight_eq_div_pow,
    BitVec.toNat_ofNat, List.mem_cons, List.not_mem_nil, or_false, ne_eq]
  omega

/-! ## The sequencer map (R66, R69) -/

/-- Settles O5: format U has 512 words, so each row is decided word by word, and the reserved words
are counted. -/
theorem sequencerMapSelectsByWordAlone : Obligations.SequencerMapSelectsByWordAlone := by
  unfold Obligations.SequencerMapSelectsByWordAlone
  refine ⟨?rows, ?reserved⟩
  case rows => decide
  case reserved => decide +kernel

/-- Settles O6: a fixed list of words, run through the decoders. -/
theorem writtenOutWordsDecode : Obligations.WrittenOutWordsDecode := by
  unfold Obligations.WrittenOutWordsDecode
  decide

/-! ## The step each word selects (R67, R86) -/

variable {s t : State}

/-- Settles O7: the engine's step by its sequencer word, the host's by the accepted word. -/
theorem stepRunsTheDecodedInstruction : Obligations.StepRunsTheDecodedInstruction := by
  unfold Obligations.StepRunsTheDecodedInstruction
  exact ⟨fun s i hr hb hd => step_engine hr hb (engineEvent_eq_perform_iff.2 hd),
    fun s c i hq ha hd => step_of_accepted hq ha hd⟩

/-- Settles O22, by the guard of EXP's meaning. -/
theorem expBelowSixteenIsStuck : Obligations.ExpBelowSixteenIsStuck := by
  unfold Obligations.ExpBelowSixteenIsStuck
  exact exec_exp_stuck

/-- Settles O36: without reset no event is enabled, and reset does not read the sequencer word. -/
theorem reservedSequencerWordIsStuck : Obligations.ReservedSequencerWordIsStuck := by
  unfold Obligations.ReservedSequencerWordIsStuck
  exact fun s hl => ⟨fun hr => step_stuck s hr (Bool.not_eq_true _ ▸ hl),
    fun hr => ⟨_, step_reset (event_reset s hr), Seq.legal_idle⟩⟩

/-! ## The walk of the sequencer (R67) -/

theorem seq_of_step_busy (hl : s.SeqLegal) (hr : s.rstPin = false) (hb : s.seq.phase ≠ .idle)
    (ht : step s = .next t) : t.seq = s.seq.next := by
  obtain ⟨u, hu, hq, -⟩ := step_busy hl hr hb
  obtain rfl := Host.Outcome.next.inj (hu.symm.trans ht)
  exact hq

theorem step_of_none_accepted (hq : s.seq = Seq.idle) (hr : s.rstPin = false)
    (ha : s.accepted = none) : step s = .next s.held :=
  step_quiet (by simp [State.event, State.busy, State.idle, hq, hr, ha])

theorem eq_encRun_of_decodeCommand (h : decodeCommand c = .instr .run) : c = encRun :=
  (CodeWord.command.inj (encode_of_decodeCommand h)).symm

/-- Of the commands only RUN writes the sequencer word (40_host_commands.md R87). -/
theorem exec_host_seq {i : Instr} (h : i.agent = .host) (hrun : i ≠ .run)
    (ht : exec i s = .next t) : t.seq = s.seq := by
  cases i with
  | nop | init | wrb a d | rdd a => cases ht; rfl
  | run => exact absurd rfl hrun
  | _ => cases h

/-- An idle engine that does not accept RUN stays idle (R67). -/
theorem seq_of_step_idle (hq : s.seq = Seq.idle) (hr : s.rstPin = false)
    (ha : s.accepted ≠ some encRun) (ht : step s = .next t) : t.seq = Seq.idle := by
  cases hacc : s.accepted with
  | none =>
    obtain rfl := Host.Outcome.next.inj ((step_of_none_accepted hq hr hacc).symm.trans ht)
    exact hq
  | some c =>
    rcases decodeCommand_total c with ⟨i, hi, hhost⟩ | hd
    · have hrun : i ≠ .run := by
        rintro rfl
        exact ha (hacc.trans (congrArg some (eq_encRun_of_decodeCommand hi)))
      rw [step_of_accepted hq hacc hi] at ht
      exact (exec_host_seq hhost hrun ht).trans hq
    · have hs := step_of_accepted_illegal hq hacc (by simp [hd])
      obtain rfl := Host.Outcome.next.inj (hs.symm.trans ht)
      exact hq

theorem seq_of_step_run (hq : s.seq = Seq.idle) (ha : s.accepted = some encRun)
    (ht : step s = .next t) : t.seq = Seq.load := by
  have hs := step_of_accepted hq ha decodeCommand_encRun
  obtain rfl := Host.Outcome.next.inj (hs.symm.trans ht)
  rfl

theorem noResetFor_of_le {m n : Nat} {l : List HostMove} (h : m ≤ n)
    (hr : noResetFor n l = true) : noResetFor m l = true := by
  rw [← Nat.add_sub_cancel' h, noResetFor_add, Bool.and_eq_true] at hr
  exact hr.1

/-- While no reset comes, every step brings a busy engine one step nearer to idle (R67). -/
theorem run_stepsToIdle {n : Nat} (hl : s.SeqLegal) (hn : n ≤ s.seq.stepsToIdle)
    (hr : noResetFor n s.stream = true) :
    ∃ t, run n s = .next t ∧ t.SeqLegal ∧ t.seq.stepsToIdle + n = s.seq.stepsToIdle := by
  induction n generalizing s with
  | zero => exact ⟨s, rfl, hl, rfl⟩
  | succ n ih =>
    have hb := Seq.busy_of_stepsToIdle_pos (q := s.seq) (by omega)
    obtain ⟨hrst, hrest⟩ := rstPin_of_noResetFor hr
    obtain ⟨u, hu, hq, hstream⟩ := step_busy hl hrst hb
    have hsteps := Seq.stepsToIdle_next hl hb
    rw [← hq] at hsteps
    obtain ⟨t, ht, htl, htn⟩ := ih (seqLegal_of_step hl hu) (by omega) (hstream ▸ hrest)
    exact ⟨t, (run_succ hu).trans ht, htl, by omega⟩

/-- A legal sequencer word with no steps left is (IDLE, 0). -/
theorem Seq.eq_idle_iff_stepsToIdle {q : Seq} (hl : q.legal = true) :
    q = Seq.idle ↔ q.stepsToIdle = 0 := by
  refine ⟨fun h => h ▸ rfl, fun h => ?_⟩
  by_contra hne
  have hb : q.phase ≠ .idle := fun hp => hne (Seq.eq_idle_of_legal q hl hp)
  have := Seq.stepsToIdle_next hl hb
  omega

/-- Settles O38: each row is one value of `Seq.next`, and the 115 steps are counted down by
`Seq.stepsToIdle`. -/
theorem sequencerFollowsItsFixedWalk : Obligations.SequencerFollowsItsFixedWalk := by
  unfold Obligations.SequencerFollowsItsFixedWalk
  refine ⟨fun s t hl hr ht => ?_, ⟨decodeSequencer_load, fun _ => decodeSequencer_expand,
    decodeSequencer_initv, decodeSequencer_round, decodeSequencer_addback⟩, fun s hq hr n hn => ?_⟩
  · have hnext {q : Seq} (hq : s.seq = q) (hb : q.phase ≠ .idle) : t.seq = q.next :=
      hq ▸ seq_of_step_busy hl hr (hq ▸ hb) ht
    refine ⟨fun hq ha => seq_of_step_run hq ha ht, fun hq ha => seq_of_step_idle hq hr ha ht,
      fun hq => hnext hq nofun, fun k hk hq => ?_, fun hq => hnext hq nofun,
      fun hq => hnext hq nofun, fun k hk hq => ?_, fun hq => hnext hq nofun,
      fun hq => hnext hq nofun⟩
    · exact (hnext hq nofun).trans (Seq.next_expand (by omega))
    · exact (hnext hq nofun).trans (Seq.next_round (by omega))
  · have hsteps : s.seq.stepsToIdle = 115 := hq ▸ rfl
    have hl : s.SeqLegal := (congrArg Seq.legal hq).trans Seq.legal_load
    obtain ⟨t, ht, htl, htn⟩ := run_stepsToIdle hl (by omega) (noResetFor_of_le hn hr)
    refine ⟨t, ht, (Seq.eq_idle_iff_stepsToIdle htl).trans ?_⟩
    omega

end Sys2Proof.Machine
end

section
/-! PROOFS. The host commands (40_host_commands.md R80 to R87): what the port does with a presented
command, and the effect of each command word. -/

namespace Sys2Proof.Machine

variable {s t : State} {c : Word}

/-! ## A command held by a busy engine (R86) -/

/-- The engine's own steps neither write ERR nor return a byte. -/
theorem err_and_responses_of_step_busy (hl : s.SeqLegal) (hr : s.rstPin = false)
    (hb : s.seq.phase ≠ .idle) (ht : step s = .next t) :
    t.err = s.err ∧ t.responses = s.responses := by
  have ha := accepted_of_busy hb
  constructor
  · simpa [hr, ha] using step_err hl ht
  · have hnone : s.rspData = none :=
      Option.eq_none_iff_forall_ne_some.2 fun v hv => by
        obtain ⟨a, hrdd, -⟩ := (rspData_eq_some hl).1 hv
        simp [ha] at hrdd
    simpa [hnone] using step_responses hl ht

/-- While a RUN lasts without reset, the port only uses up its one-step levels, ERR is kept and no
byte is returned. -/
theorem run_busy_frame {n : Nat} (hl : s.SeqLegal) (hn : n ≤ s.seq.stepsToIdle)
    (hr : noResetFor n s.stream = true) (ht : run n s = .next t) :
    t.stream = heldFor n s.stream ∧ t.err = s.err ∧ t.responses = s.responses := by
  induction n generalizing s with
  | zero => cases ht; exact ⟨rfl, rfl, rfl⟩
  | succ n ih =>
    have hb := Seq.busy_of_stepsToIdle_pos (q := s.seq) (by omega)
    obtain ⟨hrst, hrest⟩ := rstPin_of_noResetFor hr
    obtain ⟨u, hu, hq, hstream⟩ := step_busy hl hrst hb
    obtain ⟨huerr, huresp⟩ := err_and_responses_of_step_busy hl hrst hb hu
    have hsteps := Seq.stepsToIdle_next hl hb
    rw [← hq] at hsteps
    rw [run_succ hu] at ht
    obtain ⟨hs, he, hp⟩ := ih (seqLegal_of_step hl hu) (by omega) (hstream ▸ hrest) ht
    exact ⟨by rw [hs, hstream]; rfl, he.trans huerr, hp.trans huresp⟩

theorem noResetFor_present (n : Nat) (c : Word) (l : List HostMove) :
    noResetFor n (.present c :: l) = true := by
  cases n <;> rfl

theorem Seq.stepsToIdle_le {q : Seq} (hl : q.legal = true) : q.stepsToIdle ≤ 115 := by
  rcases (Seq.legal_iff q).1 hl with rfl | rfl | ⟨hp, hk⟩ | rfl | hp | rfl
  · decide
  · decide
  · simp only [Seq.stepsToIdle, hp]
    omega
  · decide
  · simp only [Seq.stepsToIdle, hp]
    omega
  · decide

theorem seq_phase_of_busy (h : s.busy = true) : s.seq.phase ≠ .idle := of_decide_eq_true h

/-- A busy engine goes on, and a presented command is neither taken nor dropped. -/
theorem step_busy_present {rest : List HostMove} (hl : s.SeqLegal) (hb : s.seq.phase ≠ .idle)
    (hs : s.stream = .present c :: rest) :
    ∃ t, step s = .next t ∧ t.stream = s.stream ∧ t.err = s.err ∧ t.responses = s.responses := by
  have hr := rstPin_present s c rest hs
  obtain ⟨t, ht, -, hstream⟩ := step_busy hl hr hb
  exact ⟨t, ht, by rw [hstream, hs]; rfl, err_and_responses_of_step_busy hl hr hb ht⟩

/-- A command presented to a busy engine is the next one accepted, once the engine is idle. -/
theorem run_present_until_accepted {rest : List HostMove} (hl : s.SeqLegal)
    (hs : s.stream = .present c :: rest) :
    ∃ t, run s.seq.stepsToIdle s = .next t ∧ t.seq = Seq.idle ∧
      t.stream = s.stream ∧ t.err = s.err ∧ t.responses = s.responses ∧ t.accepted = some c := by
  have hr : noResetFor s.seq.stepsToIdle s.stream = true := hs ▸ noResetFor_present _ c rest
  obtain ⟨t, ht, htl, hsteps⟩ := run_stepsToIdle hl le_rfl hr
  have hq : t.seq = Seq.idle := (Seq.eq_idle_iff_stepsToIdle htl).2 (by omega)
  obtain ⟨hheld, herr, hresp⟩ := run_busy_frame hl le_rfl hr ht
  have hstream : t.stream = s.stream := by rw [hheld, hs, heldFor_present]
  exact ⟨t, ht, hq, hstream, herr, hresp, accepted_of_present hq (hstream.trans hs)⟩

/-- Settles O12: acceptance by the port's law, and the wait of a presented command counted by
`Seq.stepsToIdle`. -/
theorem busyEngineHoldsThePresentedCommand : Obligations.BusyEngineHoldsThePresentedCommand := by
  unfold Obligations.BusyEngineHoldsThePresentedCommand
  refine ⟨fun s c => ?accepted, fun s c i => step_of_accepted, fun s c a hq ha hd => ?rdd,
    fun s c rest hl hb hs => ?held, fun s hq hr hv => ?quiet⟩
  case accepted => simp [accepted_eq_some, State.cmdReady]
  case rdd =>
    have hl : s.SeqLegal := (congrArg Seq.legal hq).trans Seq.legal_idle
    exact (rspData_eq_some hl).2 ⟨a, ha.trans (congrArg some (eq_encRdd_of_decodeCommand hd)), rfl⟩
  case held =>
    exact ⟨step_busy_present hl (seq_phase_of_busy hb) hs, s.seq.stepsToIdle, Seq.stepsToIdle_le hl,
      fun hq => hq ▸ rfl, run_present_until_accepted hl hs⟩
  case quiet =>
    exact step_of_none_accepted hq hr (by simp [accepted_of_idle hr hq, hv])

/-! ## Illegal command words (R85) -/

theorem raiseIllegalCommand_of_err (h : s.err = true) : s.raiseIllegalCommand c = s := by
  rw [State.raiseIllegalCommand, ← h]

/-- Settles O11: the step of an accepted illegal word, and the same step where ERR is set already;
the examples are decided over the list, not over all words. -/
theorem illegalCommandSetsErrOnly : Obligations.IllegalCommandSetsErrOnly := by
  unfold Obligations.IllegalCommandSetsErrOnly
  refine ⟨fun s c hq ha hd => ?step, ?examples⟩
  case step =>
    have hs := step_of_accepted_illegal hq ha (by simp [hd])
    refine ⟨hs, fun herr => hs.trans (congrArg _ ?_)⟩
    exact raiseIllegalCommand_of_err (s := s.consumed) herr
  case examples => exact List.forall_iff_forall_mem.1 (by decide)

/-! ## The legal commands (R80 to R84, R87) -/

/-- Settles O14: commands do not fail, and ERR and seq by the laws of `exec`. -/
theorem legalCommandsNeitherFailNorTouchErr :
    Obligations.LegalCommandsNeitherFailNorTouchErr := by
  unfold Obligations.LegalCommandsNeitherFailNorTouchErr
  intro i s hi
  obtain ⟨t, ht, -⟩ := exec_host s hi
  exact ⟨t, ht, (exec_withErr false ht).1, fun hrun => exec_host_seq hi hrun ht,
    fun e => (exec_withErr e ht).2⟩

/-- Settles O15: NOP's accepting step is the identity on the engine, and a busy engine holds it. -/
theorem nopKeepsEverything : Obligations.NopKeepsEverything := by
  unfold Obligations.NopKeepsEverything
  refine ⟨decodeCommand_encNop, exec_nop, fun s hq ha => ?_, fun s rest hl hb hs => ?_⟩
  · exact (step_of_accepted hq ha decodeCommand_encNop).trans (exec_nop _)
  · have hbusy := seq_phase_of_busy hb
    obtain ⟨t, ht, hstream, -, -⟩ := step_busy_present hl hbusy hs
    exact ⟨accepted_of_busy hbusy, t, ht, hstream⟩

/-- Settles O16: INIT's effect, and the ends of the IV in the DIGEST window. -/
theorem initLoadsTheInitialValue : Obligations.InitLoadsTheInitialValue := by
  unfold Obligations.InitLoadsTheInitialValue
  have hfirst : digestByte iv (digestAddr 0#5) = 0x6A#8 := by decide
  have hlast : digestByte iv (digestAddr 31#5) = 0x19#8 := by decide
  refine ⟨decodeCommand_encInit, fun s => ⟨s.setH iv, exec_init s, rfl, rfl, exec_init _, ?_, ?_⟩⟩
  · rw [exec_rdd, State.readDigest, State.setH_h, hfirst, State.respond]
  · rw [exec_rdd, State.readDigest, State.setH_h, hlast, State.respond]

/-! ### WRB (R82) -/

theorem ofNat_eq_encWrb (a : BitVec 6) (d : Byte) :
    BitVec.ofNat 32 (0x20000000 + 256 * a.toNat + d.toNat) = encWrb a d := by
  rw [← encWrb_toNat, BitVec.ofNat_toNat, BitVec.setWidth_eq]

/-- Of two writes to one byte the later stays. -/
theorem writeBlock_writeBlock (s : State) (j : Fin 64) (v v' : Byte) :
    (s.writeBlock j v).writeBlock j v' = s.writeBlock j v' := by
  simp [State.writeBlock]

/-- Writes to two bytes may come in either order. -/
theorem writeBlock_comm (s : State) {j k : Fin 64} (h : j ≠ k) (v v' : Byte) :
    (s.writeBlock j v).writeBlock k v' = (s.writeBlock k v').writeBlock j v := by
  simp only [State.writeBlock]
  rw [Vector.set_comm _ _ (Fin.val_ne_of_ne h)]

theorem blockAddr_injective : Function.Injective blockAddr := fun _ _ h => BitVec.toFin_inj.1 h

/-- A word that is no command decodes to ILLEGAL of itself (R73). -/
theorem decodeCommand_eq_illegal (h : ∀ i, decodeCommand c ≠ .instr i) :
    decodeCommand c = .illegal c :=
  (decodeCommand_total c).resolve_left fun ⟨i, hi, _⟩ => h i hi

/-- WRB's row leaves six bits for the address, so OP 2 with a greater one is in no row. -/
theorem decodeCommand_wrb_outside (hop : c.extractLsb' 28 4 = 2#4)
    (haddr : 63 < (c.extractLsb' 8 8).toNat) : decodeCommand c = .illegal c := by
  have hval := congrArg BitVec.toNat hop
  simp only [BitVec.extractLsb'_toNat, Nat.shiftRight_eq_div_pow, BitVec.toNat_ofNat] at hval haddr
  exact decodeCommand_eq_illegal (not_command_iff.2 (by omega))

/-- Settles O17, by the laws of a write to the block buffer. -/
theorem wrbWritesOneBlockByte : Obligations.WrbWritesOneBlockByte := by
  unfold Obligations.WrbWritesOneBlockByte
  refine ⟨fun a d d' s => ⟨?word, s.writeBlock (blockAddr a) d, exec_wrb a d s, rfl,
      readBlock_writeBlock_same s _ d, fun j => readBlock_writeBlock_other s _ j d, rfl, ?twice⟩,
    fun a a' d d' s t t' hne ht ht' => ?order, fun c => decodeCommand_wrb_outside,
    decodeCommand_encWrb 0x00#6 0x61#8, decodeCommand_encWrb 0x3F#6 0x18#8⟩
  case word => rw [ofNat_eq_encWrb, decodeCommand_encWrb]
  case twice => rw [exec_wrb, exec_wrb, writeBlock_writeBlock]
  case order =>
    cases ht
    cases ht'
    rw [exec_wrb, exec_wrb, writeBlock_comm s (blockAddr_injective.ne hne)]

/-! ### RUN and RDD (R83, R84) -/

/-- Settles O18, by RUN's effect. -/
theorem runStartsTheSequencer : Obligations.RunStartsTheSequencer :=
  ⟨decodeCommand_encRun, exec_run⟩

theorem ofNat_eq_encRdd (a : BitVec 5) :
    BitVec.ofNat 32 (0x40000000 + 256 * a.toNat) = encRdd a := by
  rw [← encRdd_toNat, BitVec.ofNat_toNat, BitVec.setWidth_eq]

/-- A byte of the DIGEST window as arithmetic on its word of H (20_memory.md R43). -/
theorem digestByte_toNat (h : Vector Word 8) (j : Fin 32) :
    (digestByte h j).toNat = h[j.val / 4].toNat / 2 ^ (24 - 8 * (j.val % 4)) % 2 ^ 8 := by
  rw [digestByte, BitVec.extractLsb'_toNat, Nat.shiftRight_eq_div_pow]

/-- Settles O19, by RDD's effect and the byte it reads. -/
theorem rddReturnsTheDigestByte : Obligations.RddReturnsTheDigestByte := by
  unfold Obligations.RddReturnsTheDigestByte
  intro a s
  have hword : a.toNat / 4 < 8 := Nat.div_lt_of_lt_mul a.isLt
  refine ⟨?_, _, s.readDigest (digestAddr a), ⟨a.toNat / 4, hword⟩, exec_rdd a s, rfl, rfl,
    digestByte_toNat s.h (digestAddr a)⟩
  rw [ofNat_eq_encRdd, decodeCommand_encRdd]

end Sys2Proof.Machine
end

section
/-! PROOFS. The message schedule (41_message_schedule.md): σ0 and σ1 (R90, R91), LDW and EXP (R92, R93),
and Schedule(B) (R94). -/

namespace Sys2Proof.Machine

/-! ## σ0 and σ1 (R90, R91) -/

/-- The exclusive or of two rotations and a shift, bit by bit: the form of σ0 and of σ1. -/
theorem getLsbD_rotr_xor_rotr_xor_shr {m n i : Nat} (x : Word) (k : Nat) (hm : 0 < m) (hm' : m < 32)
    (hn : 0 < n) (hn' : n < 32) (hi : i < 32) :
    (rotr x m ^^^ rotr x n ^^^ shr x k).getLsbD i =
      ((x.getLsbD ((i + m) % 32) ^^ x.getLsbD ((i + n) % 32)) ^^
        (decide (i + k < 32) && x.getLsbD (i + k))) := by
  rw [BitVec.getLsbD_xor, BitVec.getLsbD_xor, getLsbD_rotr x hm hm' hi, getLsbD_rotr x hn hn' hi,
    getLsbD_shr]

/-- Settles O28: the common form at the amounts of each function; the listed values are computed. -/
theorem smallSigmasRotateAndShift : Obligations.SmallSigmasRotateAndShift := by
  unfold Obligations.SmallSigmasRotateAndShift
  refine ⟨fun x i hi => ⟨?_, ?_⟩, by decide, by decide⟩
  · exact getLsbD_rotr_xor_rotr_xor_shr x 3 (by decide) (by decide) (by decide) (by decide) hi
  · exact getLsbD_rotr_xor_rotr_xor_shr x 10 (by decide) (by decide) (by decide) (by decide) hi

/-! ## LDW and EXP (R92, R93) -/

/-- A byte appended to a word is its new least significant digit in base 2^8. -/
theorem append_byte_toNat {n : Nat} (v : BitVec n) (d : Byte) :
    (v ++ d).toNat = v.toNat * 2 ^ 8 + d.toNat := by
  rw [BitVec.toNat_append, ← Nat.shiftLeft_add_eq_or_of_lt d.isLt, Nat.shiftLeft_eq]

/-- Four bytes as one word, the first most significant (20_memory.md R41). -/
theorem beWord_toNat (b0 b1 b2 b3 : Byte) : (beWord b0 b1 b2 b3).toNat =
    b0.toNat * 2 ^ 24 + b1.toNat * 2 ^ 16 + b2.toNat * 2 ^ 8 + b3.toNat := by
  simp only [beWord, append_byte_toNat]
  omega

theorem blockWord_toNat (b : Vector Byte 64) (i : Fin 16) : (blockWord b i).toNat =
    b[4 * i.val].toNat * 2 ^ 24 + b[4 * i.val + 1].toNat * 2 ^ 16 +
      b[4 * i.val + 2].toNat * 2 ^ 8 + b[4 * i.val + 3].toNat :=
  beWord_toNat _ _ _ _

/-- LDW writes W and seq and nothing else (R92). -/
theorem exec_ldw_eq (s : State) :
    exec .ldw s = .next { s with w := loadWords s.b s.w, seq := Seq.firstExpand } := by
  rw [exec_ldw, State.loadSchedule]
  rfl

/-- Settles O20, by LDW's effect and the words it loads. -/
theorem ldwLoadsSixteenBigEndianWords : Obligations.LdwLoadsSixteenBigEndianWords := by
  unfold Obligations.LdwLoadsSixteenBigEndianWords
  refine ⟨decodeSequencer_load, fun s => ⟨_, exec_ldw_eq s, rfl, fun i => ?_, fun i hi => ?_⟩⟩
  · exact (congrArg _ (loadWords_low s.b s.w i.val i.isLt)).trans (blockWord_toNat s.b i)
  · exact loadWords_high s.b s.w i.val hi i.isLt

/-- Settles O21, by EXP's effect: one word of W and the next sequencer word. -/
theorem expExpandsOneScheduleWord : Obligations.ExpExpandsOneScheduleWord := by
  unfold Obligations.ExpExpandsOneScheduleWord
  refine fun k s hk => ⟨decodeSequencer_expand hk, _, exec_exp k s hk, rfl, ?_, fun i hi => ?_, rfl⟩
  · exact Vector.getElem_set_self k.isLt
  · exact Vector.getElem_set_ne k.isLt i.isLt hi.symm

/-! ## Schedule(B) (R94) -/

/-- Words 0 to 15 of Schedule(B) are the block's words. -/
theorem schedule_eq_blockWord (b : Vector Byte 64) (i : Fin 16) :
    (schedule b)[i.val] = blockWord b i := by
  have hload := agreeBelow_schedule_loadWords b (schedule b) i.val (by omega) i.isLt
  rw [← hload, loadWords_low b _ i.val i.isLt]

/-- Settles O43: the two ranges of the recurrence, and the run of the 49 steps. -/
theorem scheduleSatisfiesItsRecurrence : Obligations.ScheduleSatisfiesItsRecurrence := by
  unfold Obligations.ScheduleSatisfiesItsRecurrence
  refine ⟨fun b i => ?_, schedule_eq_expandWord, fun s hq hr => ⟨_, run_schedule hq hr, rfl, rfl⟩⟩
  rw [schedule_eq_blockWord, blockWord_toNat]

end Sys2Proof.Machine
end

section
/-! PROOFS. What a compression in flight has computed is right, and stays right with every step
(41_message_schedule.md R94, 42_round_function.md R107). -/

namespace Sys2Proof.Machine

variable {s t : State}

/-! ## What the invariant asks of the next phase -/

/-- At (IDLE, 0) and at (LOAD, 0) nothing has been computed yet. -/
theorem compressionCorrect_of_seq (h : s.seq = Seq.idle ∨ s.seq = Seq.load) :
    s.CompressionCorrect := by
  rcases h with h | h <;> simp [State.CompressionCorrect, h]

/-- In EXPAND the words of W below the index are Schedule(B)'s. -/
theorem compressionCorrect_expand {k : BitVec 6} (hq : s.seq = { phase := .expand, t := k }) :
    s.CompressionCorrect ↔ AgreeBelow k.toNat (schedule s.b) s.w := by
  simp only [State.CompressionCorrect, hq]
  exact ⟨fun h i hi => h ⟨i, hi⟩, fun h i => h i.val i.isLt⟩

/-- Past EXP k, the words up to k are what the next phase asks. -/
theorem compressionCorrect_afterExpand {k : BitVec 6} (hq : s.seq = Seq.afterExpand k)
    (hw : AgreeBelow (k.toNat + 1) (schedule s.b) s.w) : s.CompressionCorrect := by
  by_cases hk : k.toNat < 63
  · have hnext : s.seq = { phase := .expand, t := k + 1#6 } := hq.trans (if_pos hk)
    rw [compressionCorrect_expand hnext, toNat_succ_of_lt k hk]
    exact hw
  · have hlast : s.seq = Seq.initv := hq.trans (if_neg hk)
    rw [show k.toNat + 1 = 64 by omega] at hw
    simpa [State.CompressionCorrect, hlast] using hw.eq

/-- Past RND k, the variables after round k are what the next phase asks. -/
theorem compressionCorrect_afterRound {k : BitVec 6} (hq : s.seq = Seq.afterRound k)
    (hw : s.w = schedule s.b) (hx : s.x = roundsUpTo s.h (schedule s.b) (k.toNat + 1)) :
    s.CompressionCorrect := by
  by_cases hk : k.toNat < 63
  · have hnext : s.seq = { phase := .round, t := k + 1#6 } := hq.trans (if_pos hk)
    simp only [State.CompressionCorrect, hnext, toNat_succ_of_lt k hk]
    exact ⟨hw, hx⟩
  · have hlast : s.seq = Seq.addback := hq.trans (if_neg hk)
    rw [show k.toNat + 1 = 64 by omega] at hx
    simpa only [State.CompressionCorrect, hlast, Seq.addback_phase, rounds] using hx

/-! ## Every step keeps it -/

theorem compressionCorrect_of_step (hl : s.SeqLegal) (h : s.CompressionCorrect)
    (ht : step s = .next t) : t.CompressionCorrect := by
  have hnext {u : State} (hs : step s = .next u) : u = t := Host.Outcome.next.inj (hs.symm.trans ht)
  rcases step_cases s hl with
    ⟨-, hs⟩ | ⟨-, -, hs⟩ | ⟨k, -, hq, hk, hs⟩ | ⟨-, hq, hs⟩ | ⟨k, -, hq, hs⟩ | ⟨-, -, hs⟩ |
    ⟨i, -, hq, -, -, hi, hs⟩ | ⟨-, hq, -, -, hs⟩ | ⟨-, hq, -, hs⟩
  · obtain rfl := hnext hs
    exact compressionCorrect_of_seq (.inl rfl)
  · obtain rfl := hnext hs
    rw [compressionCorrect_expand (k := 16#6) rfl]
    simpa using agreeBelow_schedule_loadWords s.b s.w
  · obtain rfl := hnext hs
    rw [compressionCorrect_expand hq] at h
    exact compressionCorrect_afterExpand rfl (h.expandSchedule hk)
  · obtain rfl := hnext hs
    simp only [State.CompressionCorrect, hq, Seq.initv_phase] at h
    exact ⟨h, rfl⟩
  · obtain rfl := hnext hs
    simp only [State.CompressionCorrect, hq] at h
    obtain ⟨hw, hx⟩ := h
    have hround : roundVars s.x (kAt (wordIndex k)) s.w[k.toNat] =
        roundsUpTo s.h (schedule s.b) (k.toNat + 1) := by
      rw [hx, hw, roundVars_roundsUpTo]
    exact compressionCorrect_afterRound rfl hw hround
  · obtain rfl := hnext hs
    exact compressionCorrect_of_seq (.inl rfl)
  · obtain ⟨u, hu, hseq⟩ := exec_host s.consumed hi
    obtain rfl := hnext (hs.trans hu)
    exact compressionCorrect_of_seq (hseq.imp_left (·.trans hq))
  · obtain rfl := hnext hs
    exact compressionCorrect_of_seq (.inl hq)
  · obtain rfl := hnext hs
    exact compressionCorrect_of_seq (.inl hq)

/-- Settles O40, by the nine ways a step from a legal word can go. -/
theorem compressionInFlightStaysCorrect : Obligations.CompressionInFlightStaysCorrect := by
  unfold Obligations.CompressionInFlightStaysCorrect
  exact fun _ _ hl h ht => ⟨seqLegal_of_step hl ht, compressionCorrect_of_step hl h ht⟩

end Sys2Proof.Machine
end

section
/-! PROOFS. The round function (42_round_function.md): Σ0, Σ1, Ch and Maj (R100 to R103), the round
constants (R104), LDV and RND (R105, R106), and Rounds(H, W) (R107). -/

namespace Sys2Proof.Machine

/-! ## Σ0 and Σ1 (R100, R101) -/

/-- The exclusive or of three rotations, bit by bit: the form of Σ0 and of Σ1. -/
theorem getLsbD_rotr_xor_rotr_xor_rotr {l m n i : Nat} (x : Word) (hl : 0 < l) (hl' : l < 32)
    (hm : 0 < m) (hm' : m < 32) (hn : 0 < n) (hn' : n < 32) (hi : i < 32) :
    (rotr x l ^^^ rotr x m ^^^ rotr x n).getLsbD i =
      ((x.getLsbD ((i + l) % 32) ^^ x.getLsbD ((i + m) % 32)) ^^ x.getLsbD ((i + n) % 32)) := by
  rw [BitVec.getLsbD_xor, BitVec.getLsbD_xor, getLsbD_rotr x hl hl' hi, getLsbD_rotr x hm hm' hi,
    getLsbD_rotr x hn hn' hi]

/-- Settles O29: the common form at the amounts of each function; the listed values are computed. -/
theorem bigSigmasRotate : Obligations.BigSigmasRotate := by
  unfold Obligations.BigSigmasRotate
  refine ⟨fun x i hi => ⟨?_, ?_⟩, by decide, by decide⟩ <;>
    exact getLsbD_rotr_xor_rotr_xor_rotr x (by decide) (by decide) (by decide) (by decide)
      (by decide) (by decide) hi

/-! ## Ch and Maj (R102, R103) -/

theorem getLsbD_ch {i : Nat} (e f g : Word) (hi : i < 32) :
    (ch e f g).getLsbD i = if e.getLsbD i then f.getLsbD i else g.getLsbD i := by
  simp only [ch, BitVec.getLsbD_xor, BitVec.getLsbD_and, BitVec.getLsbD_not, hi, decide_true]
  cases e.getLsbD i <;> simp

theorem getLsbD_maj (a b c : Word) (i : Nat) :
    (maj a b c).getLsbD i =
      decide (2 ≤ (a.getLsbD i).toNat + (b.getLsbD i).toNat + (c.getLsbD i).toNat) := by
  simp only [maj, BitVec.getLsbD_xor, BitVec.getLsbD_and]
  cases a.getLsbD i <;> cases b.getLsbD i <;> cases c.getLsbD i <;> rfl

/-- The two terms of Ch never meet in a bit. -/
theorem ch_terms_disjoint (e f g : Word) : (e &&& f) &&& (~~~e &&& g) = 0#32 := by
  ext i hi
  cases he : e[i] <;> simp [he]

theorem ch_eq_or (e f g : Word) : ch e f g = (e &&& f) ||| (~~~e &&& g) := by
  ext i hi
  cases he : e[i] <;> simp [ch, he]

theorem maj_comm_left (a b c : Word) : maj a b c = maj b a c := by
  rw [maj, maj, BitVec.and_comm a b, BitVec.xor_assoc, BitVec.xor_assoc,
    BitVec.xor_comm (a &&& c)]

theorem maj_comm_right (a b c : Word) : maj a b c = maj a c b := by
  rw [maj, maj, BitVec.and_comm b c, BitVec.xor_comm (a &&& b)]

theorem ch_zero (f g : Word) : ch 0#32 f g = g := by
  rw [ch, BitVec.zero_and, BitVec.not_zero, BitVec.allOnes_and, BitVec.zero_xor]

theorem ch_allOnes (f g : Word) : ch (BitVec.allOnes 32) f g = f := by
  rw [ch, BitVec.allOnes_and, BitVec.not_allOnes, BitVec.zero_and, BitVec.xor_zero]

/-- Settles O30: the bits of Ch and Maj, and the laws that follow; the listed values are computed. -/
theorem chChoosesAndMajIsTheMajority : Obligations.ChChoosesAndMajIsTheMajority := by
  unfold Obligations.ChChoosesAndMajIsTheMajority
  exact ⟨fun x y z i hi => ⟨getLsbD_ch x y z hi, getLsbD_maj x y z i⟩,
    fun x y z => ⟨ch_terms_disjoint x y z, ch_eq_or x y z, maj_comm_left x y z, maj_comm_right x y z⟩,
    fun f g => ⟨ch_zero f g, ch_allOnes f g⟩, by decide⟩

/-! ## The round constants (R104) -/

/-- Trial division by the numbers from 2 to 17: what decides primality below 18² = 324. -/
def passesTrialDivision (p : Nat) : Bool :=
  decide (2 ≤ p ∧ ∀ m : Nat, m < 18 → 2 ≤ m → m < p → ¬m ∣ p)

theorem passesTrialDivision_iff_prime {p : Nat} (hp : p < 18 ^ 2) :
    passesTrialDivision p = true ↔ p.Prime := by
  rw [passesTrialDivision, decide_eq_true_iff]
  constructor
  · rintro ⟨h2, hdiv⟩
    refine Nat.prime_def_le_sqrt.2 ⟨h2, fun m hm hmp => ?_⟩
    exact hdiv m (hmp.trans_lt (Nat.sqrt_lt'.2 hp)) hm (hmp.trans_lt (Nat.sqrt_lt_self h2))
  · intro hprime
    exact ⟨hprime.two_le, fun m _ hm hmp => (Nat.prime_def_lt'.1 hprime).2 m hm hmp⟩

theorem firstPrimes_eq_filter : firstPrimes = (List.range 312).filter passesTrialDivision := by
  decide

/-- The 64 listed numbers are exactly the primes up to 311. -/
theorem mem_firstPrimes_iff (p : Nat) : p ∈ firstPrimes ↔ p.Prime ∧ p ≤ 311 := by
  rw [firstPrimes_eq_filter, List.mem_filter, List.mem_range, and_comm, Nat.lt_succ_iff]
  exact and_congr_left fun hp => passesTrialDivision_iff_prime (by omega)

/-- K[i] is the cube root of p_i · 2^96, rounded down, without the bits above the fraction's first 32:
Newton's method finds each root. -/
theorem kAt_toNat_eq_nthRoot : ∀ i : Fin 64,
    (kAt i).toNat = Nat.nthRoot 3 (firstPrimes.getD i.val 0 * 2 ^ 96) % 2 ^ 32 := by
  decide

/-- Settles O31: the root rounded down meets both bounds of the statement. -/
theorem roundConstantsAreCubeRootFractions : Obligations.RoundConstantsAreCubeRootFractions := by
  unfold Obligations.RoundConstantsAreCubeRootFractions
  refine ⟨rfl, ?_, mem_firstPrimes_iff, fun i => ?_⟩
  · rw [firstPrimes_eq_filter]
    exact List.pairwise_lt_range.filter _
  · exact ⟨Nat.nthRoot 3 (firstPrimes.getD i.val 0 * 2 ^ 96), Nat.pow_nthRoot_le (.inl three_ne_zero),
      Nat.lt_pow_nthRoot_add_one three_ne_zero _, kAt_toNat_eq_nthRoot i⟩

/-! ## LDV and RND (R105, R106) -/

/-- Settles O23, by LDV's effect. -/
theorem ldvLoadsTheWorkingVariables : Obligations.LdvLoadsTheWorkingVariables := by
  unfold Obligations.LdvLoadsTheWorkingVariables
  exact ⟨decodeSequencer_initv, fun s => ⟨_, exec_ldv s, rfl, fun _ => rfl⟩⟩

/-- Settles O24, by RND's effect: T1 and T2 are `temp1` and `temp2` of the old variables. -/
theorem rndPerformsOneRound : Obligations.RndPerformsOneRound := by
  unfold Obligations.RndPerformsOneRound
  exact fun k s => ⟨decodeSequencer_round k, _, exec_rnd k s, rfl,
    temp1 s.x (kAt (wordIndex k)) s.w[k.toNat], temp2 s.x,
    rfl, rfl, rfl, rfl, rfl, rfl, rfl, rfl, rfl, rfl, rfl⟩

/-! ## Rounds(H, W) (R107) -/

/-- Settles O44: one round from the rounds before it, and the run of the 65 steps. -/
theorem roundsRunInOrderFromH : Obligations.RoundsRunInOrderFromH := by
  unfold Obligations.RoundsRunInOrderFromH
  exact ⟨fun h w => ⟨rfl, fun k => roundsUpTo_succ h w k.val k.isLt, rfl⟩,
    fun s hq hr => ⟨_, run_rounds hq hr, rfl, rfl, rfl, rfl⟩⟩

end Sys2Proof.Machine
end

section
/-! PROOFS. The chaining update (43_chaining_update.md): the initial value (R110), ADD (R111), and a
whole RUN as Compress(H, B) (R112). -/

namespace Sys2Proof.Machine

variable {s : State}

/-! ## The initial value (R110) -/

/-- IV[i] is the square root of p_i · 2^64, rounded down, without the bits above the fraction's first
32: Newton's method finds each root. -/
theorem iv_toNat_eq_nthRoot : ∀ i : Fin 8,
    iv[i.val].toNat = Nat.nthRoot 2 (firstPrimes.getD i.val 0 * 2 ^ 64) % 2 ^ 32 := by
  decide

theorem firstPrimes_take_eight : firstPrimes.take 8 = [2, 3, 5, 7, 11, 13, 17, 19] := rfl

/-- The DIGEST window over the IV, word by word as R110 lists it. -/
theorem digestBytes_iv : digestBytes iv =
    [0x6A#8, 0x09#8, 0xE6#8, 0x67#8] ++ [0xBB#8, 0x67#8, 0xAE#8, 0x85#8] ++
    [0x3C#8, 0x6E#8, 0xF3#8, 0x72#8] ++ [0xA5#8, 0x4F#8, 0xF5#8, 0x3A#8] ++
    [0x51#8, 0x0E#8, 0x52#8, 0x7F#8] ++ [0x9B#8, 0x05#8, 0x68#8, 0x8C#8] ++
    [0x1F#8, 0x83#8, 0xD9#8, 0xAB#8] ++ [0x5B#8, 0xE0#8, 0xCD#8, 0x19#8] := by
  decide

/-- Settles O32: the root rounded down meets both bounds of the statement, and the window after INIT
is the IV's. -/
theorem initialValueIsSquareRootFractions : Obligations.InitialValueIsSquareRootFractions := by
  unfold Obligations.InitialValueIsSquareRootFractions
  refine ⟨fun i => ?root, fun s => ⟨s.setH iv, exec_init s, digestBytes_iv⟩⟩
  case root =>
    have hprime : [2, 3, 5, 7, 11, 13, 17, 19][i.val]? = some (firstPrimes.getD i.val 0) := by
      rw [← firstPrimes_take_eight, List.getElem?_take_of_lt i.isLt, List.getD_eq_getElem?_getD,
        List.getElem?_eq_getElem (i.isLt.trans (by decide)), Option.getD_some]
    exact ⟨Nat.nthRoot 2 (firstPrimes.getD i.val 0 * 2 ^ 64), firstPrimes.getD i.val 0, hprime,
      Nat.pow_nthRoot_le (.inl two_ne_zero), Nat.lt_pow_nthRoot_add_one two_ne_zero _,
      iv_toNat_eq_nthRoot i⟩

/-! ## ADD (R111) -/

/-- The sum in each word is modulo 2^32. -/
theorem addWords_toNat (h x : Vector Word 8) (i : Fin 8) :
    (addWords h x)[i.val].toNat = (h[i.val].toNat + x[i.val].toNat) % 2 ^ 32 := by
  rw [addWords_get, BitVec.toNat_add]

/-- Settles O25, by ADD's effect and the sum of each word. -/
theorem addAddsBackWordByWord : Obligations.AddAddsBackWordByWord := by
  unfold Obligations.AddAddsBackWordByWord
  exact ⟨decodeSequencer_addback, fun s => ⟨_, exec_add s, rfl, rfl, addWords_toNat s.h s.x⟩⟩

/-! ## The RUN as a whole (R83, R112) -/

/-- Before the steps that bring it to idle are over, a busy engine is busy and accepts nothing. -/
theorem run_busy_of_lt_stepsToIdle {n : Nat} (hl : s.SeqLegal) (hn : n < s.seq.stepsToIdle)
    (hr : noResetFor n s.stream = true) :
    ∃ u, run n s = .next u ∧ u.busy = true ∧ u.accepted = none := by
  obtain ⟨u, hu, -, hsteps⟩ := run_stepsToIdle hl hn.le hr
  have hb : u.seq.phase ≠ .idle := Seq.busy_of_stepsToIdle_pos (by omega)
  exact ⟨u, hu, decide_eq_true hb, accepted_of_busy hb⟩

/-- Settles O42: the state the RUN ends in, the countdown of `Seq.stepsToIdle` on the way there, and
Compress as ADD's sums. -/
theorem runComputesCompress : Obligations.RunComputesCompress := by
  unfold Obligations.RunComputesCompress
  intro s hq ha hr
  refine ⟨⟨_, run_of_accepted_run hq ha hr, rfl, rfl, rfl, rfl, rfl, by simp only, rfl⟩,
    fun n h1 hn => ?between, addWords_toNat s.h (rounds s.h (schedule s.b))⟩
  case between =>
    obtain ⟨m, rfl⟩ := Nat.exists_eq_add_of_le' h1
    have hs : step s = .next (s.consumed.setSeq Seq.load) :=
      step_of_accepted (i := .run) hq ha decodeCommand_encRun
    have hm : m < Seq.load.stepsToIdle := hn
    rw [run_succ hs]
    exact run_busy_of_lt_stepsToIdle Seq.legal_load hm (noResetFor_of_le (by omega) hr)

end Sys2Proof.Machine
end

section
/-! PROOFS. Padding and segmentation of a message (44_host_driver.md R121 to R123), and the messages
the host refuses (R125). -/

namespace Sys2Proof.Machine

/-! ## The padded message (R121, R122) -/

theorem zeroBytes_eq (n : Nat) : (zeroBytes n : Int) = (55 - (n : Int)) % 64 := by
  rw [zeroBytes, Int.toNat_of_nonneg (Int.emod_nonneg _ (by decide))]

/-- A 64-bit value is the big-endian sum of its eight bytes. -/
theorem be64_toNat (v : BitVec 64) : ∃ b0 b1 b2 b3 b4 b5 b6 b7 : Byte,
    be64 v = [b0, b1, b2, b3, b4, b5, b6, b7] ∧
    v.toNat = b0.toNat * 2 ^ 56 + b1.toNat * 2 ^ 48 + b2.toNat * 2 ^ 40 + b3.toNat * 2 ^ 32 +
      b4.toNat * 2 ^ 24 + b5.toNat * 2 ^ 16 + b6.toNat * 2 ^ 8 + b7.toNat := by
  refine ⟨_, _, _, _, _, _, _, _, rfl, ?_⟩
  have hv := v.isLt
  simp only [BitVec.extractLsb'_toNat, Nat.shiftRight_eq_div_pow]
  omega

theorem pad_length (m : List Byte) :
    (pad m).length = m.length + 1 + zeroBytes m.length + 8 := by
  have hbe : (be64 (BitVec.ofNat 64 (8 * m.length))).length = 8 := rfl
  simp only [pad, List.length_append, List.length_singleton, List.length_replicate, hbe]

/-- The padding fills the last block: the length field ends where a block ends. -/
theorem pad_length_eq_blocks (m : List Byte) : (pad m).length = 64 * blockCount m.length := by
  have hz := zeroBytes_eq m.length
  rw [pad_length, blockCount]
  omega

/-! ## The blocks in order (R123) -/

theorem split_length (p : List Byte) : (split p).length = p.length / 64 := by
  simp [split]

theorem split_pad_length (m : List Byte) : (split (pad m)).length = blockCount m.length := by
  rw [split_length, pad_length_eq_blocks, Nat.mul_div_cancel_left _ (by decide)]

/-- A block that lies inside the message is the 64 bytes from 64k on. -/
theorem blockAt_toList {p : List Byte} {k : Nat} (h : 64 * (k + 1) ≤ p.length) :
    (blockAt p k).toList = (p.drop (64 * k)).take 64 := by
  refine List.ext_getElem ?_ fun j hj _ => ?_
  · simp only [Vector.length_toList, List.length_take, List.length_drop]
    omega
  · have hj64 : j < 64 := by simpa using hj
    have hin : 64 * k + j < p.length := by omega
    simp [blockAt, hin]

/-- The first n blocks, one after the other, are the first 64n bytes. -/
theorem flatten_blocks {p : List Byte} {n : Nat} (h : 64 * n ≤ p.length) :
    ((List.range n).map fun k => (blockAt p k).toList).flatten = p.take (64 * n) := by
  induction n with
  | zero => rfl
  | succ n ih =>
    rw [List.range_succ, List.map_append, List.flatten_append, ih (by omega), List.map_singleton,
      List.flatten_singleton, blockAt_toList h, Nat.mul_succ, List.take_add]

theorem flatten_split {p : List Byte} (h : 64 ∣ p.length) :
    ((split p).map Vector.toList).flatten = p := by
  have hlen : 64 * (p.length / 64) = p.length := Nat.mul_div_cancel' h
  rw [split, List.map_map]
  exact (flatten_blocks hlen.le).trans (by rw [hlen, List.take_length])

/-- Settles O52: z is `zeroBytes`, and what R121 and R122 say of it is arithmetic modulo 64. -/
theorem paddingFillsWholeBlocks : Obligations.PaddingFillsWholeBlocks := by
  unfold Obligations.PaddingFillsWholeBlocks
  intro m
  have hz := zeroBytes_eq m.length
  exact ⟨zeroBytes m.length, 8 * (zeroBytes m.length + 1), hz, rfl, rfl, be64_toNat, by omega,
    by omega, by omega, fun k _ _ => by omega, pad_length m, pad_length_eq_blocks m, rfl,
    split_pad_length m, flatten_split (Dvd.intro _ (pad_length_eq_blocks m).symm)⟩

/-! ## The messages the host refuses (R125) -/

variable {m : List Byte}

theorem hashProgram_of_lt (h : m.length < 2 ^ 61) : hashProgram m = .ok (hashCommands m) :=
  if_pos h

theorem hashProgram_of_le (h : 2 ^ 61 ≤ m.length) : hashProgram m = .error .messageTooLong :=
  if_neg (Nat.not_lt.2 h)

theorem sha256_of_lt (h : m.length < 2 ^ 61) : sha256 m = .ok (sha256Bytes m) := if_pos h

theorem sha256_of_le (h : 2 ^ 61 ≤ m.length) : sha256 m = .error .messageTooLong :=
  if_neg (Nat.not_lt.2 h)

/-- Settles O53, by the two branches of the host's test. -/
theorem hostRefusesMessagesItCannotMeasure : Obligations.HostRefusesMessagesItCannotMeasure := by
  unfold Obligations.HostRefusesMessagesItCannotMeasure
  exact fun m => ⟨fun h => ⟨hashProgram_of_le h, sha256_of_le h⟩,
    fun h => ⟨hashProgram_of_lt h, sha256_of_lt h, by omega⟩⟩

/-- The only program the host's procedure has is R124's. -/
theorem eq_hashCommands_of_hashProgram {p : List Word} (h : hashProgram m = .ok p) :
    p = hashCommands m := by
  rcases Nat.lt_or_ge m.length (2 ^ 61) with hlt | hle
  · rw [hashProgram_of_lt hlt] at h
    exact (Except.ok.inj h).symm
  · rw [hashProgram_of_le hle] at h
    cases h

end Sys2Proof.Machine
end

section
/-! PROOFS. The host's command programs on an idle engine (30_encoding.md R72): WRBLK, HASHBLK and
RDDIGEST, and from them the hash procedure (44_host_driver.md R124). -/

namespace Sys2Proof.Machine

variable {s : State}

/-! ## A program on the port -/

theorem presentAll_append (p q : List Word) :
    presentAll (p ++ q) = presentAll p ++ presentAll q := List.map_append

/-- A program waits while the engine is busy, its first command presented. -/
theorem heldFor_presentAll (n : Nat) (p : List Word) : heldFor n (presentAll p) = presentAll p := by
  cases p with
  | nil =>
    induction n with
    | zero => rfl
    | succ n ih => exact ih
  | cons c p => exact heldFor_present n c _

theorem noResetFor_presentAll (n : Nat) (p : List Word) :
    noResetFor n (presentAll p) = true := by
  cases p with
  | nil => cases n <;> rfl
  | cons c p => exact noResetFor_present n c _

/-! ## WRBLK and HASHBLK (R72) -/

/-- WRBs of bytes of a block, at any list of addresses, copy these bytes and no others. -/
theorem run_wrbs {blk : Vector Byte 64} {rest : List HostMove} (js : List (Fin 64))
    (hq : s.seq = Seq.idle)
    (hs : s.stream =
      presentAll (js.map fun j => encWrb (BitVec.ofFin j) blk[j.val]) ++ rest) :
    ∃ b, run js.length s = .next { s with b := b, stream := rest } ∧
      ∀ k : Fin 64, b[k.val] = if k ∈ js then blk[k.val] else s.b[k.val] := by
  induction js generalizing s with
  | nil =>
    obtain rfl : s.stream = rest := hs
    exact ⟨s.b, rfl, fun k => (if_neg List.not_mem_nil).symm⟩
  | cons j js ih =>
    have hstep := step_of_accepted hq (accepted_of_present hq hs) (decodeCommand_encWrb _ _)
    obtain ⟨b, hrun, hb⟩ := ih (s := s.consumed.writeBlock (blockAddr (BitVec.ofFin j)) blk[j.val])
      hq (congrArg List.tail hs)
    refine ⟨b, (run_succ hstep).trans hrun, fun k => ?_⟩
    rcases eq_or_ne k j with rfl | hkj
    · simp [hb, blockAddr]
    · have hne : j.val ≠ k.val := fun h => hkj (Fin.ext h.symm)
      simp [hb, blockAddr, hkj, hne]

/-- WRBLK replaces the whole block buffer. -/
theorem run_wrblk {blk : Vector Byte 64} {rest : List HostMove} (hq : s.seq = Seq.idle)
    (hs : s.stream = presentAll (wrblk blk) ++ rest) :
    run 64 s = .next { s with b := blk, stream := rest } := by
  obtain ⟨b, hrun, hb⟩ := run_wrbs (List.finRange 64) hq hs
  obtain rfl : b = blk := Vector.ext fun k hk => by simpa using hb ⟨k, hk⟩
  rwa [List.length_finRange] at hrun

/-- HASHBLK compresses the block it writes into H: 65 host steps and 115 engine steps. -/
theorem run_hashblk {blk : Vector Byte 64} {rest : List HostMove} (hq : s.seq = Seq.idle)
    (hr : noResetFor 115 rest = true) (hs : s.stream = presentAll (hashblk blk) ++ rest) :
    run 180 s = .next { s with
      seq := Seq.idle, h := compress s.h blk, x := rounds s.h (schedule blk), w := schedule blk,
      b := blk, stream := heldFor 115 rest } := by
  rw [hashblk, presentAll_append, List.append_assoc] at hs
  rw [run_add (j := 64) 116 (run_wrblk hq hs)]
  exact run_of_accepted_run hq (accepted_of_present hq rfl) hr

/-- HASHBLK for one block after another chains their compressions (R113). -/
theorem run_hashblks {p : List Word} (blocks : List (Vector Byte 64)) (hq : s.seq = Seq.idle)
    (hs : s.stream = presentAll ((blocks.map hashblk).flatten ++ p)) :
    ∃ t, run (180 * blocks.length) s = .next t ∧ t.seq = Seq.idle ∧ t.stream = presentAll p ∧
      t.h = compressAll s.h blocks ∧ t.err = s.err ∧ t.responses = s.responses := by
  induction blocks generalizing s with
  | nil => exact ⟨s, rfl, hq, hs, rfl, rfl, rfl⟩
  | cons blk blocks ih =>
    rw [List.map_cons, List.flatten_cons, List.append_assoc, presentAll_append] at hs
    have hblk := run_hashblk hq (noResetFor_presentAll 115 _) hs
    rw [heldFor_presentAll] at hblk
    rw [List.length_cons, Nat.mul_succ, Nat.add_comm _ 180, run_add _ hblk]
    exact ih rfl rfl

/-! ## RDDIGEST (R72) -/

/-- RDDs return the bytes they ask for, in the order of the program. -/
theorem run_rdds {rest : List HostMove} (js : List (Fin 32)) (hq : s.seq = Seq.idle)
    (hs : s.stream = presentAll (js.map fun j => encRdd (BitVec.ofFin j)) ++ rest) :
    run js.length s = .next { s with
      stream := rest, responses := s.responses ++ js.map (digestByte s.h) } := by
  induction js generalizing s with
  | nil =>
    obtain rfl : s.stream = rest := hs
    rw [List.map_nil, List.append_nil]
    rfl
  | cons j js ih =>
    have hstep := step_of_accepted hq (accepted_of_present hq hs) (decodeCommand_encRdd _)
    rw [List.map_cons, List.append_cons]
    exact (run_succ hstep).trans
      (ih (s := s.consumed.respond (digestByte s.h j)) hq (congrArg List.tail hs))

/-- RDDIGEST returns the 32 digest bytes in order (R114). -/
theorem run_rddigest {rest : List HostMove} (hq : s.seq = Seq.idle)
    (hs : s.stream = presentAll rddigest ++ rest) :
    run 32 s = .next { s with stream := rest, responses := s.responses ++ digestBytes s.h } :=
  run_rdds (List.finRange 32) hq hs

/-! ## The hash procedure (R124) -/

theorem hashblk_length (blk : Vector Byte 64) : (hashblk blk).length = 65 := by
  simp [hashblk, wrblk]

theorem hashblks_length (blocks : List (Vector Byte 64)) :
    (blocks.map hashblk).flatten.length = 65 * blocks.length := by
  induction blocks with
  | nil => rfl
  | cons blk blocks ih =>
    rw [List.map_cons, List.flatten_cons, List.length_append, hashblk_length, ih, List.length_cons]
    omega

theorem rddigest_length : rddigest.length = 32 := by
  simp [rddigest]

theorem hashCommands_length (m : List Byte) :
    (hashCommands m).length = 1 + 65 * blockCount m.length + 32 := by
  rw [hashCommands, List.length_append, List.length_append, List.length_singleton,
    hashblks_length, split_pad_length, rddigest_length]

/-- The procedure's program from its first command to its last response. -/
theorem run_hashCommands {m : List Byte} (hq : s.seq = Seq.idle)
    (hs : s.stream = presentAll (hashCommands m)) :
    ∃ t, run (1 + (180 * blockCount m.length + 32)) s = .next t ∧ t.RunOver ∧ t.err = s.err ∧
      t.responses = s.responses ++ sha256Bytes m := by
  have hinit := step_of_accepted hq (accepted_of_present hq hs) decodeCommand_encInit
  obtain ⟨t, hblocks, htq, hts, hth, hte, htr⟩ := run_hashblks
    (s := s.consumed.setH iv) (split (pad m)) hq (congrArg List.tail hs)
  have hdigest := run_rddigest htq (hts.trans (List.append_nil _).symm)
  rw [split_pad_length] at hblocks
  rw [htr, hth] at hdigest
  rw [Nat.add_comm 1, run_succ hinit]
  exact ⟨_, (run_add 32 hblocks).trans hdigest, ⟨rfl, htq⟩, hte, rfl⟩

/-- Settles O51, by INIT, one HASHBLK for each block, and RDDIGEST. -/
theorem hashProcedureReturnsTheDigest : Obligations.HashProcedureReturnsTheDigest := by
  unfold Obligations.HashProcedureReturnsTheDigest
  intro s m p hq hp hs
  obtain rfl := eq_hashCommands_of_hashProgram hp
  have hsteps : (hashCommands m).length + 115 * blockCount m.length =
      1 + (180 * blockCount m.length + 32) := by
    rw [hashCommands_length]
    omega
  rw [hsteps]
  exact ⟨hashCommands_length m, run_hashCommands hq hs⟩

end Sys2Proof.Machine
end

section
/-! PROOFS. The surrounding software: HMAC's key normalisation and HKDF's output
(45_surrounding_software.md R131 to R136). -/

namespace Sys2Proof.Machine

/-! ## What an answer of a sequenced call says of its parts -/

theorem ok_of_bind {ε α β : Type} {x : Except ε α} {f : α → Except ε β} {b : β}
    (h : x.bind f = .ok b) : ∃ a, x = .ok a ∧ f a = .ok b := by
  cases x with
  | error e => cases h
  | ok a => exact ⟨a, rfl, h⟩

theorem ok_of_map {ε α β : Type} {x : Except ε α} {f : α → β} {b : β}
    (h : x.map f = .ok b) : ∃ a, x = .ok a ∧ f a = b := by
  cases x with
  | error e => cases h
  | ok a => exact ⟨a, rfl, Except.ok.inj h⟩

variable {m d key k : List Byte}

/-- A digest has 32 bytes (R114). -/
theorem sha256_length (h : sha256 m = .ok d) : d.length = 32 := by
  rcases Nat.lt_or_ge m.length (2 ^ 61) with hlt | hle
  · rw [sha256_of_lt hlt] at h
    rw [← Except.ok.inj h, sha256Bytes, digestBytes_length]
  · rw [sha256_of_le hle] at h
    cases h

/-! ## The HMAC key (R131) -/

theorem zeroPad64_length (h : k.length ≤ 64) : (zeroPad64 k).length = 64 := by
  rw [zeroPad64, List.length_append, List.length_replicate]
  omega

theorem zeroPad64_of_length (h : k.length = 64) : zeroPad64 k = k := by
  rw [zeroPad64, h, Nat.sub_self, List.replicate_zero, List.append_nil]

theorem zeroPad64_zeros {n : Nat} (h : n ≤ 64) :
    zeroPad64 (List.replicate n 0x00#8) = List.replicate 64 0x00#8 := by
  rw [zeroPad64, List.length_replicate, List.replicate_append_replicate, Nat.add_sub_cancel' h]

theorem hmacKey_of_le (h : key.length ≤ 64) : hmacKey key = .ok (zeroPad64 key) := if_pos h

theorem hmacKey_of_lt (h : 64 < key.length) : hmacKey key = (sha256 key).map zeroPad64 :=
  if_neg (Nat.not_le.2 h)

theorem hmacKey_length (h : hmacKey key = .ok k) : k.length = 64 := by
  rcases Nat.lt_or_ge 64 key.length with hlong | hshort
  · rw [hmacKey_of_lt hlong] at h
    obtain ⟨d, hd, rfl⟩ := ok_of_map h
    exact zeroPad64_length (by rw [sha256_length hd]; decide)
  · rw [hmacKey_of_le hshort] at h
    rw [← Except.ok.inj h, zeroPad64_length hshort]

/-- Settles O54: a key of at most 64 bytes is padded itself, a longer one by way of its digest. -/
theorem hmacKeyIsNormalisedToSixtyFourBytes : Obligations.HmacKeyIsNormalisedToSixtyFourBytes := by
  unfold Obligations.HmacKeyIsNormalisedToSixtyFourBytes
  refine ⟨fun key k => hmacKey_length, fun key h => hmacKey_of_le h.le, fun key h => ?exact64,
    fun key d hlong hd => ⟨sha256_length hd, ?hashed⟩⟩
  case exact64 => rw [hmacKey_of_le h.le, zeroPad64_of_length h]
  case hashed =>
    rw [hmacKey_of_lt hlong, hd, Except.map, zeroPad64, sha256_length hd]

/-! ## HMAC -/

/-- Two keys with one normal form give one HMAC. -/
theorem hmac_congr_key {key' : List Byte} (h : hmacKey key = hmacKey key') :
    hmac key m = hmac key' m := by
  rw [hmac, hmac, h]

theorem hmac_length (h : hmac key m = .ok d) : d.length = 32 := by
  obtain ⟨k, -, hk⟩ := ok_of_bind h
  obtain ⟨inner, -, houter⟩ := ok_of_bind hk
  exact sha256_length houter

/-! ## HKDF's blocks and their number (R134) -/

variable {prk info t okm ikm salt : List Byte} {n : Nat}

/-- One more block keeps the blocks before it and appends an HMAC. -/
theorem hkdfBlocks_succ (h : hkdfBlocks prk info (n + 1) = .ok (t, okm)) :
    ∃ t' okm' : List Byte, hkdfBlocks prk info n = .ok (t', okm') ∧
      okm = okm' ++ t ∧ t.length = 32 := by
  obtain ⟨⟨t', okm'⟩, hprev, hnext⟩ := ok_of_bind h
  obtain ⟨u, hu, heq⟩ := ok_of_map hnext
  obtain ⟨rfl, rfl⟩ := Prod.mk.inj heq
  exact ⟨t', okm', hprev, rfl, hmac_length hu⟩

theorem hkdfBlocks_length (h : hkdfBlocks prk info n = .ok (t, okm)) : okm.length = 32 * n := by
  induction n generalizing t okm with
  | zero => cases h; rfl
  | succ n ih =>
    obtain ⟨t', okm', hprev, rfl, ht⟩ := hkdfBlocks_succ h
    rw [List.length_append, ih hprev, ht, Nat.mul_succ]

theorem le_hkdfCount (n : Nat) : n ≤ 32 * hkdfCount n := by
  rw [hkdfCount]
  omega

theorem hkdfCount_add (n : Nat) : hkdfCount (n + 32) = hkdfCount n + 1 := by
  rw [hkdfCount, hkdfCount]
  omega

/-! ## HKDF's output (R133 to R136) -/

/-- An answer is the front of enough blocks, made under the extracted key. -/
theorem hkdfDerive_ok (h : hkdfDerive n ikm salt info = .ok d) :
    ∃ prk t okm : List Byte, hkdfExtract ikm salt = .ok prk ∧
      hkdfBlocks prk info (hkdfCount n) = .ok (t, okm) ∧ d = okm.take n := by
  rw [hkdfDerive] at h
  split at h
  · obtain ⟨prk, hprk, hrest⟩ := ok_of_bind h
    obtain ⟨⟨t, okm⟩, hblocks, rfl⟩ := ok_of_map hrest
    exact ⟨prk, t, okm, hprk, hblocks, rfl⟩
  · cases h

theorem hkdfDerive_length (h : hkdfDerive n ikm salt info = .ok d) : d.length = n := by
  obtain ⟨prk, t, okm, -, hblocks, rfl⟩ := hkdfDerive_ok h
  exact List.length_take_of_le (by rw [hkdfBlocks_length hblocks]; exact le_hkdfCount n)

/-- 32 bytes more are one block more under the same extracted key. -/
theorem hkdfDerive_prefix {d' : List Byte} (h : hkdfDerive n ikm salt info = .ok d)
    (h' : hkdfDerive (n + 32) ikm salt info = .ok d') : d <+: d' := by
  obtain ⟨prk, t, okm, hprk, hblocks, rfl⟩ := hkdfDerive_ok h
  obtain ⟨prk', t', okm', hprk', hblocks', rfl⟩ := hkdfDerive_ok h'
  obtain rfl : prk = prk' := Except.ok.inj (hprk.symm.trans hprk')
  rw [hkdfCount_add] at hblocks'
  obtain ⟨u, v, hprev, rfl, -⟩ := hkdfBlocks_succ hblocks'
  obtain ⟨rfl, rfl⟩ := Prod.mk.inj (Except.ok.inj (hblocks.symm.trans hprev))
  have hlen : n ≤ okm.length := hkdfBlocks_length hblocks ▸ le_hkdfCount n
  rw [← List.take_append_of_le_length hlen]
  exact List.take_prefix_take_left (Nat.le_add_right n 32)

theorem hkdfDerive_of_lt (h : 8160 < n) : hkdfDerive n ikm salt info = .error .usageError := by
  have hcount : ¬ hkdfCount n ≤ 255 := by
    rw [hkdfCount]
    omega
  exact if_neg hcount

/-- An empty salt and one of 32 zero bytes are both normalised to 64 zero bytes. -/
theorem hkdfExtract_empty_salt (ikm : List Byte) :
    hkdfExtract ikm [] = hkdfExtract ikm (List.replicate 32 0x00#8) := by
  have hzeros (j : Nat) (hj : j ≤ 64) :
      hmacKey (List.replicate j 0x00#8) = .ok (List.replicate 64 0x00#8) := by
    rw [hmacKey_of_le (by rwa [List.length_replicate]), zeroPad64_zeros hj]
  exact hmac_congr_key ((hzeros 0 (by decide)).trans (hzeros 32 (by decide)).symm)

/-- Settles O55, from the blocks an answer is cut from, and for the salt from HMAC's key. -/
theorem hkdfOutputHasItsLengthAndIsAPrefix : Obligations.HkdfOutputHasItsLengthAndIsAPrefix := by
  unfold Obligations.HkdfOutputHasItsLengthAndIsAPrefix
  exact ⟨fun n ikm salt info okm h => ⟨hkdfDerive_length h, fun okm' => hkdfDerive_prefix h⟩,
    fun n ikm salt info => hkdfDerive_of_lt, hkdfExtract_empty_salt⟩

end Sys2Proof.Machine
end

section
/-! PROOFS. Hazards, progress and residual data (70_reset_and_hazards.md R160 to R172): what a busy
engine does with the port and with B, that no step's course depends on the data state, and how a
host overwrites it. -/

namespace Sys2Proof.Machine

variable {s t : State}

/-! ## A busy engine and its port (R160, R169) -/

/-- A legal busy sequencer word selects a micro-operation (R64, R66). -/
theorem engineEvent_of_busy {q : Seq} (hl : q.legal = true) (hb : q.phase ≠ .idle) :
    ∃ i : Instr, i.agent = .engine ∧ engineEvent q = .perform i := by
  rcases Seq.busy_cases q hl hb with ⟨-, h⟩ | ⟨k, -, -, h⟩ | ⟨-, h⟩ | ⟨k, -, h⟩ | ⟨-, h⟩ <;>
    exact ⟨_, rfl, h⟩

/-- No micro-operation writes the block buffer (10_state.md R23). -/
theorem exec_engine_b {i : Instr} (hi : i.agent = .engine) (ht : exec i s = .next t) :
    t.b = s.b := by
  cases i with
  | exp k =>
    obtain ⟨-, rfl⟩ := exec_exp_eq_next ht
    rfl
  | ldw | ldv | rnd k | add => cases ht; simp
  | _ => cases hi

theorem b_of_step_busy (hl : s.SeqLegal) (hr : s.rstPin = false) (hb : s.seq.phase ≠ .idle)
    (ht : step s = .next t) : t.b = s.b := by
  obtain ⟨i, hi, he⟩ := engineEvent_of_busy hl hb
  exact exec_engine_b (s := s.held) hi ((step_engine hr hb he).symm.trans ht)

/-- While no reset comes, a busy engine keeps the block buffer until it is idle. -/
theorem run_busy_b {n : Nat} (hl : s.SeqLegal) (hn : n ≤ s.seq.stepsToIdle)
    (hr : noResetFor n s.stream = true) (ht : run n s = .next t) : t.b = s.b := by
  induction n generalizing s with
  | zero => cases ht; rfl
  | succ n ih =>
    have hb := Seq.busy_of_stepsToIdle_pos (q := s.seq) (by omega)
    obtain ⟨hrst, hrest⟩ := rstPin_of_noResetFor hr
    obtain ⟨u, hu, hq, hstream⟩ := step_busy hl hrst hb
    have hsteps := Seq.stepsToIdle_next hl hb
    rw [← hq] at hsteps
    rw [run_succ hu] at ht
    exact (ih (seqLegal_of_step hl hu) (by omega) (hstream ▸ hrest) ht).trans
      (b_of_step_busy hl hrst hb hu)

/-- Settles O39: `Seq.stepsToIdle` counts the steps, and each of them keeps B, ERR
and the responses. -/
theorem busyEngineReachesIdle : Obligations.BusyEngineReachesIdle := by
  unfold Obligations.BusyEngineReachesIdle
  intro s hl hbusy hr
  have hpos := Seq.stepsToIdle_next hl (seq_phase_of_busy hbusy)
  have hle := Seq.stepsToIdle_le hl
  have hreset := noResetFor_of_le hle hr
  obtain ⟨u, hu, -⟩ := step_seqLegal hl
  obtain ⟨t, ht, htl, hsteps⟩ := run_stepsToIdle hl le_rfl hreset
  have hidle : t.seq = Seq.idle := (Seq.eq_idle_iff_stepsToIdle htl).2 (by omega)
  obtain ⟨hstream, herr, hresp⟩ := run_busy_frame hl le_rfl hreset ht
  exact ⟨⟨u, hu⟩, s.seq.stepsToIdle, by omega, hle, t, ht, hidle,
    run_busy_b hl le_rfl hreset ht, herr, hresp, hstream⟩

/-- Of the port a busy engine reads `rst` alone: two lists of moves that both leave it low, and are
the same once a step is over, give the same step (R144 (b)). -/
theorem step_busy_withStream {l : List HostMove} (hl : s.SeqLegal) (hb : s.seq.phase ≠ .idle)
    (hr : s.rstPin = false) (hr' : ({ s with stream := l } : State).rstPin = false)
    (hheld : heldStream l = heldStream s.stream) : step { s with stream := l } = step s := by
  obtain ⟨i, -, he⟩ := engineEvent_of_busy hl hb
  have hsame : ({ s with stream := l } : State).held = s.held := by
    simp only [State.held, hheld]
  rw [step_engine hr hb he, step_engine (s := { s with stream := l }) hr' hb he, hsame]

/-- Settles O13: the withdrawn command and the idle port are the same to a busy engine. -/
theorem withdrawnCommandIsNeverExecuted : Obligations.WithdrawnCommandIsNeverExecuted := by
  unfold Obligations.WithdrawnCommandIsNeverExecuted
  intro s c rest hl hbusy hs
  have hb := seq_phase_of_busy hbusy
  have hr := rstPin_pins s false true c rest hs
  obtain ⟨t, ht, -, hstream⟩ := step_busy hl hr hb
  obtain ⟨herr, hresp⟩ := err_and_responses_of_step_busy hl hr hb ht
  have hquiet : step { s with stream := .pins false false 0#32 :: rest } = step s :=
    step_busy_withStream hl hb hr rfl (by rw [hs, heldStream_pins, heldStream_pins])
  exact ⟨t, ht, hquiet.trans ht, by rw [hstream, hs, heldStream_pins], herr, hresp,
    b_of_step_busy hl hr hb ht⟩

/-! ## Independence of the data state (R172) -/

/-- An instruction reads H, x, W and B only to compute their next values and the byte it returns. -/
theorem exec_withData {i : Instr} (d : DataState) (h : exec i s = .next t) :
    ∃ d' r, exec i { s with toDataState := d } =
      .next { t with toDataState := d', responses := r } ∧ r.length = t.responses.length := by
  cases i with
  | exp k =>
    obtain ⟨hk, rfl⟩ := exec_exp_eq_next h
    exact ⟨_, s.responses, exec_exp k _ hk, rfl⟩
  | rdd a => cases h; exact ⟨d, _, exec_rdd a _, by simp⟩
  | _ => cases h; exact ⟨_, s.responses, rfl, by simp⟩

/-- A step from a state that differs in the data state alone answers a state that differs in the
data state and in the values of the returned bytes alone. -/
theorem step_withData (d : DataState) (ht : step s = .next t) :
    ∃ d' r, step { s with toDataState := d } =
      .next { t with toDataState := d', responses := r } ∧ r.length = t.responses.length := by
  have hevent {v : Event} (he : s.event = v) :
      ({ s with toDataState := d } : State).event = v := he
  cases he : s.event with
  | reset =>
    cases (step_reset he).symm.trans ht
    exact ⟨_, s.responses, step_reset (hevent he), rfl⟩
  | perform i =>
    rw [step_perform (hevent he)]
    exact exec_withData (s := s.held) d ((step_perform he).symm.trans ht)
  | accept i =>
    rw [step_accept (hevent he)]
    exact exec_withData (s := s.consumed) d ((step_accept he).symm.trans ht)
  | illegal c =>
    cases (step_illegal he).symm.trans ht
    exact ⟨d, s.responses, step_illegal (hevent he), rfl⟩
  | quiet =>
    cases (step_quiet he).symm.trans ht
    exact ⟨d, s.responses, step_quiet (hevent he), rfl⟩
  | stuck => rw [step, he] at ht; cases ht

/-- Settles O47: the event reads no register file, and the step follows the event. -/
theorem sequencingIsIndependentOfData : Obligations.SequencingIsIndependentOfData := by
  unfold Obligations.SequencingIsIndependentOfData
  intro s h x w b
  refine ⟨rfl, fun t ht => ?_⟩
  obtain ⟨d', r, hs, hlen⟩ := step_withData ⟨h, x, w, b⟩ ht
  exact ⟨_, hs, rfl, rfl, rfl, rfl, hlen⟩

/-! ## Overwriting what a message left behind (R166) -/

/-- An INIT presented to an idle engine loads the IV and is over (R81). -/
theorem run_present_init {rest : List HostMove} (hq : s.seq = Seq.idle)
    (hs : s.stream = .present encInit :: rest) :
    run 1 s = .next { s with h := iv, stream := rest } :=
  run_succ ((step_present hq hs decodeCommand_encInit).trans (exec_init _))

/-- Settles O57: HASHBLK with INIT presented behind it, then INIT. -/
theorem overwritingReplacesTheDataState : Obligations.OverwritingReplacesTheDataState := by
  unfold Obligations.OverwritingReplacesTheDataState
  intro s blk rest hq hs
  rw [presentAll_append, List.append_assoc] at hs
  have hblk := run_hashblk hq (noResetFor_present 115 encInit rest) hs
  rw [heldFor_present] at hblk
  exact ⟨_, (run_add (j := 180) 1 hblk).trans (run_present_init rfl rfl), rfl, rfl, rfl, rfl, rfl,
    rfl, rfl, rfl⟩

end Sys2Proof.Machine
end
